-- ==== Sys2Proof/Word.lean ====
section
/-! DEFINITION. The word types of the Plane and the two plain number types its arithmetic uses. -/

namespace Sys2Proof

abbrev Byte := BitVec 8
abbrev U16 := BitVec 16
abbrev U32 := BitVec 32
abbrev U64 := BitVec 64
/-- A byte address of host memory (52 bits, R169). -/
abbrev Addr := BitVec 52

/-- A table that lists only some of its keys. Canonical form: keys strictly rising. -/
abbrev Sparse (α : Type) := List (Nat × α)

/-- A byte memory: what it does not list reads as its default byte. -/
abbrev Mem := List (Nat × BitVec 8)

/-- An exact binary value `m × 2^e`. -/
structure Dy where
  m : Int
  e : Int
deriving DecidableEq, Repr

/-- An exact value with the special flags of the flag table in chapter 01. -/
inductive XVal where
  | fin (d : Dy)
  | pinf
  | ninf
  | nan
deriving DecidableEq, Repr

end Sys2Proof
end

