-- ==== Sys2Proof/Syntax.lean ====
section
/-! DEFINITION. The commands of the Plane: one constructor of `Instr` per row of
spec/opcode_table.json, with the operands its rule gives. Engine instructions carry the issuing task
and their class fields (chapter 08); verbs carry the mailbox whose next request they are (R272);
events carry what the world outside brings. -/

namespace Sys2Proof

/-- What the instruction fetch delivered for the task's PC: the line of the image that holds it, or an error of
the memory port (FETCH_ERROR). -/
inductive Fetch where
  | ok
  | portError
deriving DecidableEq, Repr

/-- An error that the array's or the Plaza's own checks find while a command reads or adds to a tile (R98 to
R102); errors come from outside the model (log 17: DESIGN CHOICE, safe). -/
inductive ArrayCheck where
  | residue
  | laneParity
  | adder
  | plazaCE
  | plazaUE
deriving DecidableEq, Repr

/-- The row counts from the tile's or the Square's first row. -/
structure ArrayEvent where
  kind : ArrayCheck
  row : BitVec 11
  col : Fin 192
deriving DecidableEq, Repr

/-- The tables whose SECDED the ledger counts (R333, counters 1,248 to 1,255). -/
inductive PlaneTable where
  | gazetteer
  | rowDir
  | hist
  | peers
  | streams
  | coef
  | squares
  | core
deriving DecidableEq, Repr

/-- A storage error that a command meets outside the Plaza (R165, R260): the operand buffer's, by its half and
unit; the instruction cache's; the register files'; a plane table's, by its entry. -/
inductive StoreErr where
  | bufCE (halfB : Bool) (unit : BitVec 15)
  | bufUE (halfB : Bool) (unit : BitVec 15)
  | cacheSingle
  | cacheDouble
  | regCE
  | tableCE (t : PlaneTable) (entry : BitVec 32)
  | tableUE (t : PlaneTable) (entry : BitVec 32)
deriving DecidableEq, Repr

/-- The task that issues, the guard of the common header (R167), and what goes wrong while it does. -/
structure Issue where
  veng : Fin 64
  slot : Fin 16
  gen : Bool
  gneg : Bool
  gp : BitVec 3
  fetch : Fetch
  ev : List ArrayEvent
  errs : List StoreErr
deriving DecidableEq, Repr

/-- UMODE of a block-matrix UPD; `reserved` is 0b11. -/
inductive BlockK where
  | k4
  | k8
  | reserved
deriving DecidableEq, Repr

/-- Where the stop puts the two halves of a turn: units of 128 B in the RING part, with the
half select in bit 15; the manual does not say where (log 15: DESIGN CHOICE, safe). -/
structure RingPlace where
  even : BitVec 16
  odd : BitVec 16
deriving DecidableEq, Repr

/-- A program Crossing ID, or the seal Crossing of a partition (R236). -/
inductive CrossRef where
  | prog (cid : Fin 64)
  | seal (part : Fin 8)
deriving DecidableEq, Repr

/-- A collective packet: the header of R223 and its payload. -/
structure Packet where
  hcrc : BitVec 32
  digest : BitVec 64
  cid : BitVec 16
  omaxe : BitVec 16
  plen : BitVec 15
  count : BitVec 17
  f : BitVec 10
  dstRank : BitVec 20
  srcRank : BitVec 20
  offset : BitVec 36
  globalId : BitVec 24
  epoch : BitVec 48
  ggid : BitVec 24
  fmt : BitVec 8
  outcome : BitVec 3
  last : Bool
  ptype : BitVec 4
  ver : BitVec 8
  payload : List Byte
deriving DecidableEq, Repr

/-- What the port found wrong with an arriving packet (R303). -/
structure RxFault where
  err : Bool
  cut : Bool
  noCredit : Bool
deriving DecidableEq, Repr

/-- A member of a wait-for cycle (R160). -/
inductive CycleMember where
  | stream (n : BitVec 12)
  | task (veng : Fin 64) (slot : Fin 16)
  | queue (q : BitVec 8)
deriving DecidableEq, Repr

/-- The outcome of an in-field scan (R347): the numbers of the 64-pattern blocks whose signature differed. -/
structure ScanResult where
  failing : List Nat
deriving DecidableEq, Repr

/-- The base registers of R269. -/
inductive BaseReg where
  | ctx
  | hist
  | spill
  | ms (part : Fin 8)
deriving DecidableEq, Repr

inductive PortRef where
  | mem (n : Fin 64)
  | coll (n : Fin 16)
deriving DecidableEq, Repr

/-- EVT_IN[7:2] (R306). -/
inductive EvtLine where
  | l2
  | l3
  | l4
  | l5
  | l6
  | l7
deriving DecidableEq, Repr

/-- The lines whose rising edges are events: EVT_IN[0] and EVT_IN[7:2] (R307). -/
inductive StuckLine where
  | pwrWarn
  | evt (l : EvtLine)
deriving DecidableEq, Repr

/-- A failing array found by BIST (R350). -/
inductive BistFail where
  | engine (e : Fin 64)
  | region (r : Fin 8)
  | plane
deriving DecidableEq, Repr

/-- What a start-up sequence meets outside the model: the strap, the lockstep and memory checks, the
cryptographic checks, BIST, the ledger copy's ECC (log 12: DESIGN CHOICE, safe; log 17: DESIGN CHOICE, safe). -/
structure StartEnv where
  /-- PWR_OK rose (a start from power), not only the cold reset. -/
  fromPower : Bool
  testMode : Bool
  selfCheckOk : Bool
  /-- The signature of an image verifies. -/
  signatureA : Bool
  signatureB : Bool
  identityUnwraps : Bool
  bist : List BistFail
  ledgerSramClean : Bool
  /-- FLUSH_SEQ values of ledger slots whose signature verifies. -/
  ledgerSigOk : List Nat
  /-- ROC counts of region 0 from the start of the sequence to step 11, in units of 2^10 (R357). -/
  startRoc : BitVec 32
deriving DecidableEq, Repr

inductive FlushReason where
  | period
  | orderlyStop
  | ledgerRead
deriving DecidableEq, Repr

/-- Fields of LDW (R171). -/
structure LdwF where
  bctx : BitVec 24
  g0r : BitVec 5
  gcnt : BitVec 5
  ncol : BitVec 8
  pair : Bool
  wreg : BitVec 5
  wbuf : BitVec 16
deriving DecidableEq, Repr

/-- Fields of MMA (R172). -/
structure MmaF where
  actx : BitVec 24
  bctx : BitVec 24
  bgrp : BitVec 7
  m : BitVec 11
  add : Bool
  fsrc : BitVec 2
  fimm : BitVec 10
  g0r : BitVec 5
  gcnt : BitVec 5
  areg : BitVec 5
  abuf : BitVec 16
  ocr : BitVec 5
deriving DecidableEq, Repr

/-- Fields of CONV (R173). -/
structure ConvF where
  octx : BitVec 24
  bgrp : BitVec 7
  m : BitVec 11
  ncol : BitVec 8
  rel : Bool
  sidx : BitVec 8
  bmode : BitVec 2
  bir : BitVec 5
  act : BitVec 5
  rmo : BitVec 2
  dest : Bool
  dreg : BitVec 5
  dbuf : BitVec 16
  lreg : BitVec 5
  tag : BitVec 4
deriving DecidableEq, Repr

/-- Fields of EWISE but EOP, which the row fixes (R174). -/
structure EwiseF where
  bbc : BitVec 2
  car : BitVec 5
  cbr : BitVec 5
  cor : BitVec 5
  areg : BitVec 5
  aoff : BitVec 16
  breg : BitVec 5
  boff : BitVec 16
  lreg : BitVec 5
  nreg : BitVec 5
  sidx : BitVec 8
  bmode : BitVec 2
  bir : BitVec 5
  act : BitVec 5
  rmo : BitVec 2
  dest : Bool
  dreg : BitVec 5
  tag : BitVec 4
deriving DecidableEq, Repr

/-- Fields of RED but ROP, which the row fixes (R175). -/
structure RedF where
  form : BitVec 2
  car : BitVec 5
  cor : BitVec 5
  areg : BitVec 5
  aoff : BitVec 16
  nreg : BitVec 5
  mreg : BitVec 5
  kreg : BitVec 5
  bgrp : BitVec 7
  add : Bool
  fsrc : BitVec 2
  fimm : BitVec 10
  rmo : BitVec 2
  dest : Bool
  dreg : BitVec 5
  ireg : BitVec 5
  lreg : BitVec 5
  tag : BitVec 4
deriving DecidableEq, Repr

/-- Fields of UPD but UMODE (R176). -/
structure UpdF where
  uctx : BitVec 24
  crow : BitVec 10
  treg : BitVec 5
  uexp : BitVec 2
  sgnp : Bool
  rawg : Bool
  greg : BitVec 5
  goff : BitVec 16
  lreg : BitVec 5
  nreg : BitVec 5
  tag : BitVec 4
deriving DecidableEq, Repr

/-- Fields of XFER but XOP, which the row fixes (R177). -/
structure XferF where
  tag : BitVec 4
  mreg : BitVec 5
  moff : BitVec 24
  breg : BitVec 5
  boff : BitVec 16
  len : BitVec 22
  bgrp : BitVec 7
  m : BitVec 11
  add : Bool
  rel : Bool
  fsrc : BitVec 2
  creg : BitVec 5
  xreg : BitVec 5
deriving DecidableEq, Repr

/-- Fields of RING but ROP, which the row fixes (R179). -/
structure RingF where
  tag : BitVec 4
  mreg : BitVec 5
  moff : BitVec 24
  breg : BitVec 5
  boff : BitVec 16
  len : BitVec 22
  lag : BitVec 3
  xreg : BitVec 5
  dreg : BitVec 5
deriving DecidableEq, Repr

/-- Fields of HQ but HOP (R180). -/
structure HqF where
  tryIt : Bool
  qid : BitVec 8
  sreg : BitVec 5
  pd : BitVec 3
deriving DecidableEq, Repr

/-- Fields of CTX but SNAP, which the row fixes (R182): RST, registers, offset, tag. -/
structure CtxF where
  creg : BitVec 5
  rst : Bool
  mreg : BitVec 5
  moff : BitVec 24
  tag : BitVec 4
deriving DecidableEq, Repr

/-- Fields of ALU but AOP, which the row fixes (R183). -/
structure AluF where
  sd : BitVec 5
  sa : BitVec 5
  sb : BitVec 5
  i : Bool
  imm : BitVec 48
deriving DecidableEq, Repr

/-- Fields of SETP (R183 table). -/
structure SetpF where
  cmp : BitVec 3
  pd : BitVec 3
  comb : BitVec 2
  sa : BitVec 5
  sb : BitVec 5
  i : Bool
  imm : BitVec 48
deriving DecidableEq, Repr

/-- Fields of BR (R184). -/
structure BrF where
  ind : Bool
  sr : BitVec 5
  off : BitVec 32
deriving DecidableEq, Repr

/-- Fields of LOOP (R184). -/
structure LoopF where
  creg : BitVec 5
  len : BitVec 16
deriving DecidableEq, Repr


/-- How the host answers one request that a command makes and waits for: RETRYs, then OK or ERROR (R300). The
request is named by its address. -/
structure Answer where
  addr : BitVec 52
  retries : Fin 5
  error : Bool
deriving DecidableEq, Repr

/-- The answers to a command's requests that are more than one OK. -/
abbrev Fails := List Answer

/-- The commands: one constructor per row of spec/opcode_table.json, in the table's order. -/
inductive Instr where
  /-- MMA (R172). -/
  | mma (i : Issue) (f : MmaF)
  /-- LDW (R171). -/
  | ldw (i : Issue) (f : LdwF)
  /-- CONV (R173). -/
  | conv (i : Issue) (f : ConvF)
  /-- EWISE_MOV (R174). -/
  | ewiseMov (i : Issue) (f : EwiseF)
  /-- EWISE_ADD (R174). -/
  | ewiseAdd (i : Issue) (f : EwiseF)
  /-- EWISE_SUB (R174). -/
  | ewiseSub (i : Issue) (f : EwiseF)
  /-- EWISE_MUL (R174). -/
  | ewiseMul (i : Issue) (f : EwiseF)
  /-- RED_SUM (R175). -/
  | redSum (i : Issue) (f : RedF)
  /-- RED_MAX (R175). -/
  | redMax (i : Issue) (f : RedF)
  /-- RED_MIN (R175). -/
  | redMin (i : Issue) (f : RedF)
  /-- UPD_DIAGONAL (R207). -/
  | updDiagonal (i : Issue) (f : UpdF)
  /-- UPD_BLOCK_MATRIX (R212). -/
  | updBlockMatrix (i : Issue) (f : UpdF) (k : BlockK)
  /-- LOAD (R177). -/
  | load (i : Issue) (f : XferF)
  /-- STORE (R177). -/
  | store (i : Issue) (f : XferF)
  /-- XLOAD (R93). -/
  | xload (i : Issue) (f : XferF)
  /-- XSTORE (R94). -/
  | xstore (i : Issue) (f : XferF)
  /-- XSEND (R105). -/
  | xsend (i : Issue) (f : XferF)
  /-- SQUARE (R103). -/
  | square (i : Issue) (f : XferF)
  /-- STREAM_START (R142). -/
  | streamStart (i : Issue) (f : XferF)
  /-- ROW_INSTALL (R150). -/
  | rowInstall (i : Issue) (f : XferF)
  /-- ROW_EVICT (R150). -/
  | rowEvict (i : Issue) (f : XferF)
  /-- XTLOAD (R54). -/
  | xtload (i : Issue) (f : XferF)
  /-- XTSTORE (R54). -/
  | xtstore (i : Issue) (f : XferF)
  /-- RS_X (R221). -/
  | rsX (i : Issue) (f : XferF)
  /-- AR_X (R221). -/
  | arX (i : Issue) (f : XferF)
  /-- AG (R221). -/
  | ag (i : Issue) (f : XferF)
  /-- BC (R221). -/
  | bc (i : Issue) (f : XferF)
  /-- MAXR (R221). -/
  | maxr (i : Issue) (f : XferF)
  /-- MINR (R221). -/
  | minr (i : Issue) (f : XferF)
  /-- AR_C (R119). -/
  | arC (i : Issue) (f : XferF)
  /-- PRE (R228). -/
  | pre (i : Issue) (f : XferF)
  /-- DIGX_SUM (R221). -/
  | digxSum (i : Issue) (f : XferF)
  /-- DIGX_ALL (R221). -/
  | digxAll (i : Issue) (f : XferF)
  /-- STATUS (R214). -/
  | status (i : Issue) (f : XferF)
  /-- MAXX (R222). -/
  | maxx (i : Issue) (f : XferF)
  /-- RING_SEQ (R152). -/
  | ringSeq (i : Issue) (f : RingF) (place : RingPlace)
  /-- RING_TURN (R179). -/
  | ringTurn (i : Issue) (f : RingF) (place : RingPlace)
  /-- RING_SEND (R179). -/
  | ringSend (i : Issue) (f : RingF)
  /-- RING_RECV (R179). -/
  | ringRecv (i : Issue) (f : RingF)
  /-- RING_MCAST (R154). -/
  | ringMcast (i : Issue) (f : RingF)
  /-- HQ_PUT (R180). -/
  | hqPut (i : Issue) (f : HqF)
  /-- HQ_GET (R180). -/
  | hqGet (i : Issue) (f : HqF)
  /-- CROSS_ARRIVE (R181). -/
  | crossArrive (i : Issue) (cid : BitVec 6) (mreg : BitVec 5)
  /-- CROSS_WAIT (R157). -/
  | crossWait (i : Issue) (cid : BitVec 6)
  /-- SWAP (R138). -/
  | swap (i : Issue)
  /-- WAIT (R189). -/
  | wait (i : Issue) (tmask : BitVec 16)
  /-- CTX_SNAPSHOT (R126). -/
  | ctxSnapshot (i : Issue) (f : CtxF)
  /-- CTX_RESET (R126). -/
  | ctxReset (i : Issue) (f : CtxF)
  /-- SEAL_CLOSE (R236). -/
  | sealClose (i : Issue) (dreg : BitVec 5)
  /-- SEAL_AWAIT (R182). -/
  | sealAwait (i : Issue)
  /-- BR (R184). -/
  | br (i : Issue) (f : BrF)
  /-- LOOP (R184). -/
  | loop (i : Issue) (f : LoopF)
  /-- ALU_ADD (R183). -/
  | aluAdd (i : Issue) (f : AluF)
  /-- ALU_SUB (R183). -/
  | aluSub (i : Issue) (f : AluF)
  /-- ALU_MUL (R183). -/
  | aluMul (i : Issue) (f : AluF)
  /-- ALU_AND (R183). -/
  | aluAnd (i : Issue) (f : AluF)
  /-- ALU_OR (R183). -/
  | aluOr (i : Issue) (f : AluF)
  /-- ALU_XOR (R183). -/
  | aluXor (i : Issue) (f : AluF)
  /-- ALU_SHL (R183). -/
  | aluShl (i : Issue) (f : AluF)
  /-- ALU_SHR (R183). -/
  | aluShr (i : Issue) (f : AluF)
  /-- ALU_SAR (R183). -/
  | aluSar (i : Issue) (f : AluF)
  /-- ALU_MIN (R183). -/
  | aluMin (i : Issue) (f : AluF)
  /-- ALU_MAX (R183). -/
  | aluMax (i : Issue) (f : AluF)
  /-- ALU_MINU (R183). -/
  | aluMinu (i : Issue) (f : AluF)
  /-- ALU_MAXU (R183). -/
  | aluMaxu (i : Issue) (f : AluF)
  /-- ALU_INSHI (R183). -/
  | aluInshi (i : Issue) (f : AluF)
  /-- ALU_RDSPEC (R183). -/
  | aluRdspec (i : Issue) (f : AluF)
  /-- ALU_HND (R183). -/
  | aluHnd (i : Issue) (f : AluF)
  /-- SETP (R186). -/
  | setp (i : Issue) (f : SetpF)
  /-- YIELD (R185). -/
  | yield (i : Issue)
  /-- HALT (R185). -/
  | halt (i : Issue)
  /-- INSTRUCTION_COMPLETE (R189). -/
  | instructionComplete (id : Nat) (ev : List ArrayEvent)
  /-- CROSS_ARRIVE_COMPLETE (R156). -/
  | crossArriveComplete (cid : Fin 64) (veng : Fin 64)
  /-- CROSSING_RELEASE (R156). -/
  | crossingRelease (c : CrossRef)
  /-- CROSS_STALL (R157). -/
  | crossStall (cid : Fin 64)
  /-- PACKET_LANDING (R229). -/
  | packetLanding (port : Fin 16) (p : Packet) (rx : RxFault) (ev : List ArrayEvent) (errs : List StoreErr)
  /-- ACK_RECEIVE (R230). -/
  | ackReceive (port : Fin 16) (p : Packet) (rx : RxFault)
  /-- COLL_TIMEOUT (R230). -/
  | collTimeout (sent : Nat)
  /-- SQUARE_CLOSE (R231). -/
  | squareClose (veng : Fin 64) (sq : Fin 32) (ev : List ArrayEvent)
  /-- SQUARE_UNDECLARED (R108). -/
  | squareUndeclared (run : Nat)
  /-- SQUARE_STALL (R109). -/
  | squareStall (veng : Fin 64) (slot : Fin 16)
  /-- PAGE_IN (R78). -/
  | pageIn (ctx : BitVec 24)
  /-- GROUP_SPILL (R97). -/
  | groupSpill (veng : Fin 64) (grp : Fin 80) (ev : List ArrayEvent)
  /-- GROUP_RESTORE (R97). -/
  | groupRestore (veng : Fin 64) (grp : Fin 80) (fails : Fails)
  /-- GATHER_ROW_ARRIVE (R143). -/
  | gatherRowArrive (stream : BitVec 12) (fails : Fails)
  /-- SCATTER_ADD_BUFFER (R144). -/
  | scatterAddBuffer (stream : BitVec 12) (ev : List ArrayEvent) (fails : Fails)
  /-- RING_BUFFER_PASS (R153). -/
  | ringBufferPass (veng : Fin 64) (odd : Bool)
  /-- RING_LAG (R155). -/
  | ringLag (veng : Fin 64)
  /-- MUTUAL_WAIT_BREAK (R160). -/
  | mutualWaitBreak (part : Fin 8) (cycle : List CycleMember)
  /-- HOLD_FULL (R250). -/
  | holdFull (part : Fin 8)
  /-- IMPLICIT_CLOSE (R235). -/
  | implicitClose (part : Fin 8)
  /-- MILESTONE_FORM (R238). -/
  | milestoneForm (part : Fin 8)
  /-- SEAL_SUMMARY_MERGE (R245). -/
  | sealSummaryMerge (part : Fin 8)
  /-- SEAL_VERDICT (R243). -/
  | sealVerdict (part : Fin 8) (verified : Bool)
  /-- SEAL_STALL (R246). -/
  | sealStall (part : Fin 8)
  /-- RESTART_READY (R254). -/
  | restartReady (gslot : Fin 16) (rank : BitVec 20)
  /-- RESTART_STALL (R254). -/
  | restartStall (part : Fin 8)
  /-- OPEN_SESSION (R276). -/
  | openSession (m : Fin 64)
  /-- CLOSE_SESSION (R278). -/
  | closeSession (m : Fin 64)
  /-- PARTITION_SET (R279). -/
  | partitionSet (m : Fin 64)
  /-- CTX_DEFINE_CONVERSION (R283). -/
  | ctxDefineConversion (m : Fin 64) (fails : Fails)
  /-- CTX_DEFINE_UPDATE (R283). -/
  | ctxDefineUpdate (m : Fin 64) (fails : Fails)
  /-- CTX_RELEASE (R283). -/
  | ctxRelease (m : Fin 64) (fails : Fails)
  /-- TABLE_LOAD_ACTIVATION (R284). -/
  | tableLoadActivation (m : Fin 64) (fails : Fails)
  /-- TABLE_LOAD_SCALE (R284). -/
  | tableLoadScale (m : Fin 64) (fails : Fails)
  /-- TABLE_LOAD_COEFFICIENT (R284). -/
  | tableLoadCoefficient (m : Fin 64) (fails : Fails)
  /-- SET_DUTY (R294). -/
  | setDuty (m : Fin 64)
  /-- TXN_BEGIN (R256). -/
  | txnBegin (m : Fin 64)
  /-- TXN_COMMIT (R257). -/
  | txnCommit (m : Fin 64)
  /-- TXN_ABORT (R256). -/
  | txnAbort (m : Fin 64)
  /-- KEY_SET (R286). -/
  | keySet (m : Fin 64)
  /-- PROGRAM_LOAD (R284). -/
  | programLoad (m : Fin 64) (fails : Fails)
  /-- TASK_START (R285). -/
  | taskStart (m : Fin 64)
  /-- TASK_STOP (R165). -/
  | taskStop (m : Fin 64)
  /-- PEER_UPDATE (R287). -/
  | peerUpdate (m : Fin 64) (fails : Fails)
  /-- SEAL_QUERY (R251). -/
  | sealQuery (m : Fin 64)
  /-- COMMIT_POLICY_SET (R288). -/
  | commitPolicySet (m : Fin 64)
  /-- COMMIT_POLICY_CONTINUE (R288). -/
  | commitPolicyContinue (m : Fin 64)
  /-- COMMIT_POLICY_ROLLBACK (R288). -/
  | commitPolicyRollback (m : Fin 64)
  /-- COMMIT_POLICY_COMMIT (R247). -/
  | commitPolicyCommit (m : Fin 64)
  /-- COMMIT_POLICY_RESUME (R288). -/
  | commitPolicyResume (m : Fin 64)
  /-- REPLAY_SEGMENT (R289). -/
  | replaySegment (m : Fin 64) (fails : Fails)
  /-- FENCE_ENGINE (R291). -/
  | fenceEngine (m : Fin 64)
  /-- UNFENCE_ENGINE (R291). -/
  | unfenceEngine (m : Fin 64)
  /-- SCAN_ENGINE (R344). -/
  | scanEngine (m : Fin 64)
  /-- SCAN_COMPLETE (R347). -/
  | scanComplete (res : ScanResult)
  /-- BLACKBOX_READ (R328). -/
  | blackboxRead (m : Fin 64) (fails : Fails)
  /-- LEDGER_READ (R337). -/
  | ledgerRead (m : Fin 64) (fails : Fails)
  /-- MARGIN_REPORT (R321). -/
  | marginReport (m : Fin 64)
  /-- TIME_NOTE (R292). -/
  | timeNote (m : Fin 64)
  /-- ATTEST (R342). -/
  | attest (m : Fin 64) (fails : Fails)
  /-- BAD_VERB (R281). -/
  | badVerb (m : Fin 64)
  /-- MBX_DB (R274). -/
  | mbxDb (m : Fin 64) (data : U64)
  /-- MBX_RSP_HEAD (R274). -/
  | mbxRspHead (m : Fin 64) (data : U64)
  /-- MBX_STATUS (R273). -/
  | mbxStatus (m : Fin 64) (data : U64)
  /-- PL_NCAUSE (R295). -/
  | plNcause (data : U64)
  /-- PL_PNCAUSE (R295). -/
  | plPncause (part : Fin 8) (data : U64)
  /-- BASE_REGISTER_WRITE (R269). -/
  | baseRegisterWrite (reg : BaseReg) (data : U64)
  /-- REGISTER_WRITE (R267). -/
  | registerWrite (addr : BitVec 21) (be : BitVec 8) (data : U64)
  /-- SESSION_DETACH (R277). -/
  | sessionDetach (session : Fin 64)
  /-- MEMP_RESPONSE (R300). -/
  | mempResponse (port : Fin 64) (tag : Fin 64) (status : BitVec 2)
  /-- MEMP_HRST (R301). -/
  | mempHrst (port : Fin 64)
  /-- COLP_HRST (R303). -/
  | colpHrst (port : Fin 16)
  /-- COLP_TX_CREDIT (R303). -/
  | colpTxCredit (port : Fin 16)
  /-- PORT_STALL (R320). -/
  | portStall (port : PortRef)
  /-- POWER_LOSS (R309). -/
  | powerLoss
  /-- COLD_RESET (R309). -/
  | coldReset
  /-- WARM_RESET (R309). -/
  | warmReset
  /-- COLD_START (R349). -/
  | coldStart (e : StartEnv)
  /-- WARM_START (R349). -/
  | warmStart (e : StartEnv)
  /-- STRAP_CHANGE (R310). -/
  | strapChange
  /-- QUIESCE_N (R308). -/
  | quiesceN (level : Bool)
  /-- PACE_IN (R316). -/
  | paceIn (level : BitVec 4)
  /-- PWR_WARN (R306). -/
  | pwrWarn (edges : BitVec 8)
  /-- THERM_WARN (R306). -/
  | thermWarn (level : Bool)
  /-- HOST_EVENT (R306). -/
  | hostEvent (line : EvtLine) (edges : BitVec 8)
  /-- STUCK_INPUT (R307). -/
  | stuckInput (line : StuckLine)
  /-- VACK (R318). -/
  | vack (level : Bool)
  /-- VREQ_TIMEOUT (R318). -/
  | vreqTimeout
  /-- VREQ_UPDATE (R319). -/
  | vreqUpdate
  /-- MARGIN_SAMPLE (R314). -/
  | marginSample (region : Fin 8) (sensors : List (Nat × Nat)) (temp : Int)
  /-- TOKEN_REFILL (R315). -/
  | tokenRefill (region : Fin 8)
  /-- POWER_ESTIMATE (R316). -/
  | powerEstimate
  /-- OSCILLATOR_CHECK (R322). -/
  | oscillatorCheck
  /-- RGN_PARITY (R260). -/
  | rgnParity (region : Fin 8)
  /-- LOCKSTEP (R263): a mismatch, or an uncorrectable error in control-core state. -/
  | lockstep (coreUE : Bool)
  /-- ENGINE_IDLE_TIMEOUT (R360). -/
  | engineIdleTimeout (engine : Fin 64)
  /-- DRAIN_COMPLETE (R359). -/
  | drainComplete (engine : Fin 64)
  /-- ENGINE_WAKE (R359). -/
  | engineWake (engine : Fin 64)
  /-- WAKE_COMPLETE (R359). -/
  | wakeComplete (engine : Fin 64)
  /-- RECORD_PROGRAMMED (R326). -/
  | recordProgrammed
  /-- NVM_UNIT_RETIRED (R305). -/
  | nvmUnitRetired (unit : U32)
  /-- LEDGER_SAMPLE (R334). -/
  | ledgerSample
  /-- LEDGER_FLUSH (R335). -/
  | ledgerFlush (reason : FlushReason)
  /-- MEMP_HRST_RELEASE (R301). -/
  | mempHrstRelease (port : Fin 64)
  /-- STUCK_INPUT_RELEASED (R307). -/
  | stuckInputReleased (line : StuckLine)
  /-- NVM_PROGRAM_COMPLETE (R355). -/
  | nvmProgramComplete
  /-- NVM_INSTRUMENT_ACCESS (R351). -/
  | nvmInstrumentAccess (write : Bool) (off : U32) (data : List Byte)
  /-- SEQ_FAULT (R260). -/
  | seqFault (engine : Fin 64)
deriving DecidableEq, Repr

end Sys2Proof
end

