-- ==== Sys2Proof/Machine/Num.lean ====
section
/-! DEFINITION. Exact binary numbers (R11, R12) and the Plane FP32 arithmetic of R10. -/

namespace Sys2Proof.Machine

/-- Number of bits of a natural number. -/
def bitLen (n : Nat) : Nat := if n = 0 then 0 else Nat.log2 n + 1

def dyZero : Dy := ⟨0, 0⟩

/-- `m × 2^(a.e - e)` for `e ≤ a.e`. -/
def dyAlign (a : Dy) (e : Int) : Int := a.m * ((2 ^ (a.e - e).toNat : Nat) : Int)

def dyAdd (a b : Dy) : Dy :=
  let e := min a.e b.e
  ⟨dyAlign a e + dyAlign b e, e⟩

def dyNeg (a : Dy) : Dy := ⟨-a.m, a.e⟩

def dySub (a b : Dy) : Dy := dyAdd a (dyNeg b)

def dyMul (a b : Dy) : Dy := ⟨a.m * b.m, a.e + b.e⟩

def dyAbs (a : Dy) : Dy := ⟨(a.m.natAbs : Int), a.e⟩

def dyScale (a : Dy) (k : Int) : Dy := ⟨a.m, a.e + k⟩

def dyIsZero (a : Dy) : Bool := a.m == 0

def dyLt (a b : Dy) : Bool := decide ((dySub a b).m < 0)

def dyLe (a b : Dy) : Bool := decide ((dySub a b).m ≤ 0)

def dyEq (a b : Dy) : Bool := (dySub a b).m == 0

/-- floor(log2 |a|) of a nonzero value. -/
def dyExp (a : Dy) : Int := a.e + (bitLen a.m.natAbs : Int) - 1

/-- The smallest E with |a| < 2^E, and -256 for zero (R70). -/
def dyTop (a : Dy) : Int := if a.m = 0 then -256 else dyExp a + 1

/-- `n / 2^k` to the nearest integer, ties to even. -/
def rneShift (n k : Nat) : Nat :=
  let q := n / 2 ^ k
  let r := n % 2 ^ k
  if 2 ^ k < 2 * r ∨ (2 * r = 2 ^ k ∧ q % 2 = 1) then q + 1 else q

/-- The integer nearest to `a`, ties to even (Q_j of R19). -/
def dyRound (a : Dy) : Int :=
  if 0 ≤ a.e then a.m * ((2 ^ a.e.toNat : Nat) : Int)
  else
    let q : Int := ((rneShift a.m.natAbs (-a.e).toNat : Nat) : Int)
    if a.m < 0 then -q else q

/-- `n × 2^k` for any integer k, exact only where no bit is lost. -/
def shiftNat (n : Nat) (k : Int) : Nat := if 0 ≤ k then n * 2 ^ k.toNat else n / 2 ^ (-k).toNat

/-! ## FP32 codes -/

def qnan32 : U32 := 0x7FC00000#32
def pinf32 : U32 := 0x7F800000#32
def ninf32 : U32 := 0xFF800000#32
def one32 : U32 := 0x3F800000#32

/-- An FP32 code read as R10 and R11 read it: zero and subnormal codes are 0. -/
def fp32Read (c : U32) : XVal :=
  let e : Nat := (c.toNat / 2 ^ 23) % 256
  let m : Nat := c.toNat % 2 ^ 23
  let neg := 2 ^ 31 ≤ c.toNat
  if e = 255 then (if m ≠ 0 then .nan else if neg then .ninf else .pinf)
  else if e = 0 then .fin dyZero
  else
    let v : Int := ((2 ^ 23 + m : Nat) : Int)
    .fin ⟨if neg then -v else v, (e : Int) - 150⟩

/-- Encode `n × 2^e` (sign apart), a normal magnitude of at most 24 bits. -/
def fp32Encode (neg : Bool) (n : Nat) (e : Int) : U32 :=
  let top := e + (bitLen n : Int) - 1
  let m := shiftNat n (e - (top - 23))
  BitVec.ofNat 32 ((if neg then 2 ^ 31 else 0) + ((top + 127).toNat * 2 ^ 23 + (m - 2 ^ 23)))

/-- Round a nonzero value to 24 significant bits, ties to even; with `grid` the IEEE 754 subnormal
grid of 2^-149 bounds the step (R10), without it the exponent is unbounded (R23 step 3). The second
answer says that a nonzero value became +0. -/
def fp32Of (grid : Bool) (d : Dy) : U32 × Bool :=
  if d.m = 0 then (0#32, false)
  else
    let n := d.m.natAbs
    let k0 : Int := (bitLen n : Int) - 24
    let k : Int := if grid then max k0 (-149 - d.e) else k0
    let r := if k ≤ 0 then n else rneShift n k.toNat
    let e := if k ≤ 0 then d.e else d.e + k
    let top := e + (bitLen r : Int) - 1
    if r = 0 ∨ top < -126 then (0#32, true)
    else if 128 ≤ top then ((if d.m < 0 then ninf32 else pinf32), false)
    else (fp32Encode (decide (d.m < 0)) r e, false)

/-! ## Arithmetic of exact values with flags: IEEE 754 for infinities and NaN -/

def xNeg : XVal → XVal
  | .fin d => .fin (dyNeg d)
  | .pinf => .ninf
  | .ninf => .pinf
  | .nan => .nan

/-- Sign of a value that is not NaN: true for negative. -/
def xSign : XVal → Bool
  | .fin d => decide (d.m < 0)
  | .ninf => true
  | _ => false

def xIsZero : XVal → Bool
  | .fin d => d.m == 0
  | _ => false

def xInf (neg : Bool) : XVal := if neg then .ninf else .pinf

def xMul (a b : XVal) : XVal :=
  match a, b with
  | .nan, _ => .nan
  | _, .nan => .nan
  | .fin x, .fin y => .fin (dyMul x y)
  | a, b => if xIsZero a || xIsZero b then .nan else xInf (xor (xSign a) (xSign b))

def xAdd (a b : XVal) : XVal :=
  match a, b with
  | .nan, _ => .nan
  | _, .nan => .nan
  | .fin x, .fin y => .fin (dyAdd x y)
  | .fin _, b => b
  | a, .fin _ => a
  | a, b => if xSign a = xSign b then a else .nan

def xSub (a b : XVal) : XVal := xAdd a (xNeg b)

/-- Comparison of values that are not NaN; infinities are the extremes (R28). -/
def xLt (a b : XVal) : Bool :=
  match a, b with
  | .fin x, .fin y => dyLt x y
  | .ninf, .ninf => false
  | .ninf, _ => true
  | _, .ninf => false
  | .pinf, _ => false
  | _, .pinf => true
  | _, _ => false

def xEq (a b : XVal) : Bool :=
  match a, b with
  | .fin x, .fin y => dyEq x y
  | .pinf, .pinf => true
  | .ninf, .ninf => true
  | _, _ => false

/-- t32 of R23 step 3, and whether a nonzero value became +0 (the flush counter). -/
def xToFp32 : XVal → U32 × Bool
  | .nan => (qnan32, false)
  | .pinf => (pinf32, false)
  | .ninf => (ninf32, false)
  | .fin d => fp32Of false d

/-- The result rounding of Plane FP32 arithmetic (R10). (log 41: DEDUCED, unsafe) -/
def planeRound : XVal → U32
  | .nan => qnan32
  | .pinf => pinf32
  | .ninf => ninf32
  | .fin d => (fp32Of true d).1

/-! ## Plane FP32 operations (R10); each rounds separately -/

def pAdd (a b : U32) : U32 := planeRound (xAdd (fp32Read a) (fp32Read b))
def pSub (a b : U32) : U32 := planeRound (xSub (fp32Read a) (fp32Read b))
def pMul (a b : U32) : U32 := planeRound (xMul (fp32Read a) (fp32Read b))

/-- A quotient with enough bits, the last one sticky, for one rounding to 24 bits. -/
def dyDivSticky (a b : Dy) : Dy :=
  let n := a.m.natAbs
  let d := b.m.natAbs
  let k := 30 + bitLen d
  let q := (n * 2 ^ k) / d
  let s := if (n * 2 ^ k) % d = 0 then 0 else 1
  let v : Int := ((2 * q + s : Nat) : Int)
  ⟨if decide (a.m < 0) = decide (b.m < 0) then v else -v, a.e - b.e - (k : Int) - 1⟩

/-- The code of ±0 and subnormals is read as +0, so x / 0 has the sign of x (R10). (log 134: DEDUCED, unsafe) -/
def pDiv (a b : U32) : U32 :=
  match fp32Read a, fp32Read b with
  | .nan, _ => qnan32
  | _, .nan => qnan32
  | .fin x, .fin y =>
    if y.m = 0 then (if x.m = 0 then qnan32 else if x.m < 0 then ninf32 else pinf32)
    else if x.m = 0 then 0#32
    else (fp32Of true (dyDivSticky x y)).1
  | .fin _, _ => 0#32
  | x, .fin y => if xor (xSign x) (decide (y.m < 0)) then ninf32 else pinf32
  | _, _ => qnan32

/-- floor(sqrt n), one result bit per unit of fuel. -/
def isqrtLoop (n : Nat) : Nat → Nat → Nat
  | 0, r => r
  | b + 1, r =>
    let t := r + 2 ^ b
    isqrtLoop n b (if t * t ≤ n then t else r)

def isqrt (n : Nat) : Nat := isqrtLoop n ((bitLen n + 1) / 2) 0

/-- Correctly rounded square root (R10): NaN of a negative value, the code +0 of zero. -/
def pSqrt (a : U32) : U32 :=
  match fp32Read a with
  | .nan => qnan32
  | .ninf => qnan32
  | .pinf => pinf32
  | .fin d =>
    if d.m < 0 then qnan32
    else if d.m = 0 then 0#32
    else
      let k : Nat := if (d.e - 40) % 2 = 0 then 40 else 41
      let n := d.m.natAbs * 2 ^ k
      let r := isqrt n
      let s := if r * r = n then 0 else 1
      (fp32Of true ⟨((2 * r + s : Nat) : Int), (d.e - (k : Int)) / 2 - 1⟩).1

/-- The exponent field of E of R70 that covers one FP32 code: -256 for zero and specials. -/
def fp32Top (c : U32) : Int :=
  match fp32Read c with
  | .fin d => dyTop d
  | _ => -256

end Sys2Proof.Machine
end

