-- ==== Sys2Proof/Machine/Formats.lean ====
section
/-! DEFINITION. Formats and their codes (chapter 02): the format table, decoding, packing, XAF-136 and
XAF-T images. -/

namespace Sys2Proof.Machine

/-- The formats of R36. -/
inductive Fmt where
  | fp32 | bf16 | fp16 | e4m3 | e5m2 | e2m3 | e3m2 | e2m1 | int8 | int4 | ue8m0
  | mxfp8e4m3 | mxfp8e5m2 | mxfp6e2m3 | mxfp6e3m2 | mxfp4 | mxint8
  | nx8 | nx6 | nx4 | xafT | xaf136
deriving DecidableEq, Repr

/-- The element kinds: how one element code is read and written. -/
inductive Elem where
  | fp32 | bf16 | fp16 | e4m3 | e5m2 | e2m3 | e3m2 | e2m1 | int8 | int4 | mxint8
deriving DecidableEq, Repr

/-- Format of a format code; every other code is reserved (R36). -/
def fmtOfCode (c : Nat) : Option Fmt :=
  match c with
  | 0x00 => some .fp32 | 0x01 => some .bf16 | 0x02 => some .fp16 | 0x03 => some .e4m3
  | 0x04 => some .e5m2 | 0x05 => some .e2m3 | 0x06 => some .e3m2 | 0x07 => some .e2m1
  | 0x08 => some .int8 | 0x09 => some .int4 | 0x0A => some .ue8m0
  | 0x10 => some .mxfp8e4m3 | 0x11 => some .mxfp8e5m2 | 0x12 => some .mxfp6e2m3
  | 0x13 => some .mxfp6e3m2 | 0x14 => some .mxfp4 | 0x15 => some .mxint8
  | 0x18 => some .nx8 | 0x19 => some .nx6 | 0x1A => some .nx4
  | 0x1E => some .xafT | 0x1F => some .xaf136
  | _ => none

/-- The element kind of an operand or output format; none for UE8M0 and the exact forms. -/
def fmtElem : Fmt → Option Elem
  | .fp32 => some .fp32 | .bf16 => some .bf16 | .fp16 => some .fp16
  | .e4m3 => some .e4m3 | .e5m2 => some .e5m2 | .e2m3 => some .e2m3
  | .e3m2 => some .e3m2 | .e2m1 => some .e2m1 | .int8 => some .int8 | .int4 => some .int4
  | .mxfp8e4m3 => some .e4m3 | .mxfp8e5m2 => some .e5m2 | .mxfp6e2m3 => some .e2m3
  | .mxfp6e3m2 => some .e3m2 | .mxfp4 => some .e2m1 | .mxint8 => some .mxint8
  | .nx8 => some .e4m3 | .nx6 => some .e2m3 | .nx4 => some .e2m1
  | .ue8m0 => none | .xafT => none | .xaf136 => none

def fmtIsMx : Fmt → Bool
  | .mxfp8e4m3 | .mxfp8e5m2 | .mxfp6e2m3 | .mxfp6e3m2 | .mxfp4 | .mxint8 => true
  | _ => false

def fmtIsNx : Fmt → Bool
  | .nx8 | .nx6 | .nx4 => true
  | _ => false

def fmtIsBlock (f : Fmt) : Bool := fmtIsMx f || fmtIsNx f

def elemBits : Elem → Nat
  | .fp32 => 32 | .bf16 => 16 | .fp16 => 16
  | .e4m3 => 8 | .e5m2 => 8 | .int8 => 8 | .mxint8 => 8
  | .e2m3 => 6 | .e3m2 => 6 | .e2m1 => 4 | .int4 => 4

/-- Mantissa bits of a floating-point element. -/
def elemM : Elem → Nat
  | .fp32 => 23 | .bf16 => 7 | .fp16 => 10 | .e4m3 => 3 | .e5m2 => 2
  | .e2m3 => 3 | .e3m2 => 2 | .e2m1 => 1 | _ => 0

def elemBias : Elem → Nat
  | .fp32 => 127 | .bf16 => 127 | .fp16 => 15 | .e4m3 => 7 | .e5m2 => 15
  | .e2m3 => 1 | .e3m2 => 3 | .e2m1 => 1 | _ => 0

def elemIsInt : Elem → Bool
  | .int8 | .int4 | .mxint8 => true
  | _ => false

/-- The positive code of the largest finite value (R40, R66). -/
def elemMaxCode : Elem → Nat
  | .fp32 => 0x7F7FFFFF | .bf16 => 0x7F7F | .fp16 => 0x7BFF | .e5m2 => 0x7B | .e4m3 => 0x7E
  | .e3m2 => 0x1F | .e2m3 => 0x1F | .e2m1 => 0x7
  | .int8 => 0x7F | .int4 => 0x7 | .mxint8 => 0x7F

/-- The code of +Inf, where the element format has infinities (R40). -/
def elemInfCode : Elem → Option Nat
  | .fp32 => some 0x7F800000 | .bf16 => some 0x7F80 | .fp16 => some 0x7C00 | .e5m2 => some 0x7C
  | _ => none

/-- The canonical NaN code, where the element format has NaN (R40). -/
def elemNanCode : Elem → Option Nat
  | .fp32 => some 0x7FC00000 | .bf16 => some 0x7FC0 | .fp16 => some 0x7E00 | .e5m2 => some 0x7E
  | .e4m3 => some 0x7F
  | _ => none

/-- Exponent of the largest power of two of an element (table after R40), used by R68. -/
def elemEmax : Elem → Int
  | .e4m3 => 8 | .e5m2 => 15 | .e2m3 => 2 | .e3m2 => 4 | .e2m1 => 2 | _ => 0

/-- Bytes of one block's element codes (R46, R48). -/
def blockElemBytes (k : Elem) : Nat := 32 * elemBits k / 8

/-- Bytes of an NX record: elements, scale, shift (R48). -/
def nxRecordBytes (k : Elem) : Nat := blockElemBytes k + 2

/-- Two's complement of an `n`-bit code. -/
def signed (n c : Nat) : Int := if 2 ^ (n - 1) ≤ c % 2 ^ n then ((c % 2 ^ n : Nat) : Int) - ((2 ^ n : Nat) : Int)
  else ((c % 2 ^ n : Nat) : Int)

/-- The `n`-bit two's-complement code of an integer. -/
def unsigned (n : Nat) (v : Int) : Nat := (v % ((2 ^ n : Nat) : Int)).toNat

/-- R11: an element code's value and flag, without the block scale. -/
def decodeElem (k : Elem) (code : Nat) : XVal :=
  match k with
  | .int8 => .fin ⟨signed 8 code, 0⟩
  | .int4 => .fin ⟨signed 4 code, 0⟩
  | .mxint8 => .fin ⟨signed 8 code, -6⟩
  | k =>
    let c : Nat := code % 2 ^ elemBits k
    let s : Bool := decide (2 ^ (elemBits k - 1) ≤ c)
    let a : Nat := c % 2 ^ (elemBits k - 1)
    let e : Nat := a / 2 ^ elemM k
    let m : Nat := a % 2 ^ elemM k
    if elemInfCode k = some a then xInf s
    else if elemMaxCode k < a then .nan
    else if e = 0 then .fin dyZero
    else
      let v : Int := ((2 ^ elemM k + m : Nat) : Int)
      .fin ⟨if s then -v else v, (e : Int) - (elemBias k : Int) - (elemM k : Int)⟩

/-- R12: the power of two a block's scale code and shift give. -/
def blockExp (scale d : Nat) : Int := (scale : Int) - 127 - (d : Int)

/-- R11 and R12 together; `scale` and `d` only matter for block formats. -/
def decodeIn (f : Fmt) (code scale d : Nat) : XVal :=
  match fmtElem f with
  | none => .nan
  | some k =>
    if fmtIsBlock f then
      if scale = 0xFF then .nan
      else
        match decodeElem k code with
        | .fin v => .fin (dyScale v (blockExp scale (if fmtIsNx f then d else 0)))
        | x => x
    else decodeElem k code

/-- Shift of sub-block `i` in an NX shift byte (R48). -/
def nxShift (byte i : Nat) : Nat := byte / 4 ^ i % 4

/-- Bytes of a run of `n` elements from its start, padded to a whole byte, or to a whole three-byte
group for 6-bit formats (R37, R38). -/
def runBytes (bits n : Nat) : Nat :=
  if bits = 6 then (n + 3) / 4 * 3 else (n * bits + 7) / 8

/-- Stored byte length of a dimension-0 row of `n` elements (R38, R46, R48). -/
def rowBytes (f : Fmt) (blkdim0 : Bool) (n : Nat) : Nat :=
  match fmtElem f with
  | none => if f = .xaf136 then 24 * n else n
  | some k =>
    if fmtIsNx f then (n + 31) / 32 * nxRecordBytes k
    else if fmtIsMx f && blkdim0 then (n + 31) / 32 * blockElemBytes k
    else runBytes (elemBits k) n

/-! ## Little-endian numbers -/

def leNat : List Byte → Nat
  | [] => 0
  | b :: t => b.toNat + 256 * leNat t

def toLE : Nat → Nat → List Byte
  | 0, _ => []
  | n + 1, v => BitVec.ofNat 8 v :: toLE n (v / 256)

/-! ## XAF-136 (R49) -/

/-- An exact accumulator: X in its signed range and the special flag code. -/
structure Acc where
  x : Int
  sp : BitVec 2
deriving DecidableEq, Repr

def accZero : Acc := ⟨0, 0⟩

/-- Reduction into -2^135 to 2^135 - 1 (R19). -/
def wrap136 (x : Int) : Int :=
  (x + ((2 ^ 135 : Nat) : Int)) % ((2 ^ 136 : Nat) : Int) - ((2 ^ 135 : Nat) : Int)

/-- F as the 10-bit field and back. -/
def floorField (f : Int) : Nat := unsigned 10 f
def floorOf (c : Nat) : Int := signed 10 c

def xaf136Bytes (a : Acc) (f : Int) : List Byte :=
  toLE 17 (unsigned 136 a.x) ++ toLE 1 a.sp.toNat ++ toLE 2 (floorField f) ++ toLE 4 0

/-- Accumulator and floor of a 24-byte element; reserved bits are ignored (R50). -/
def xaf136Read (b : List Byte) : Acc × Int :=
  (⟨signed 136 (leNat (b.take 17)), BitVec.ofNat 2 (leNat ((b.drop 17).take 1))⟩,
    floorOf (leNat ((b.drop 18).take 2)))

/-! ## XAF-T (R51 to R54) -/

def fitsTop (t : Nat) (x : Int) : Bool :=
  decide (-((2 ^ (32 * t + 31) : Nat) : Int) ≤ x) && decide (x < ((2 ^ (32 * t + 31) : Nat) : Int))

/-- TOP of R52. -/
def xaftTop (xs : List Int) : Nat :=
  if xs.all (fitsTop 0) then 0 else if xs.all (fitsTop 1) then 1
  else if xs.all (fitsTop 2) then 2 else if xs.all (fitsTop 3) then 3 else 4

def multLimb (b : Nat) (x : Int) : Bool := x % ((2 ^ (32 * b) : Nat) : Int) == 0

/-- The bottom limb B of R52; 0 for a group whose X are all zero. -/
def xaftBottom (top : Nat) (xs : List Int) : Nat :=
  if xs.all (· == 0) then 0
  else if decide (4 ≤ top) && xs.all (multLimb 4) then 4
  else if decide (3 ≤ top) && xs.all (multLimb 3) then 3
  else if decide (2 ≤ top) && xs.all (multLimb 2) then 2
  else if decide (1 ≤ top) && xs.all (multLimb 1) then 1 else 0

/-- Limbs of one element from the bottom limb up, limb 4 sign-extended (R52). -/
def limbBytes (x : Int) (bot n : Nat) : List Byte :=
  toLE (4 * n) (unsigned (32 * n) (x / ((2 ^ (32 * bot) : Nat) : Int)))

def spWord : List Acc → Nat
  | [] => 0
  | a :: t => a.sp.toNat + 4 * spWord t

/-- The bytes of one group (R51, R52). -/
def xaftGroup (f : Int) (as : List Acc) : List Byte :=
  let xs := as.map Acc.x
  let top := xaftTop xs
  let bot := xaftBottom top xs
  let n := top - bot + 1
  let spx := as.any (fun a => a.sp ≠ 0)
  let hdr := (if spx then 2 ^ 31 else 0) + n * 2 ^ 28 + top * 2 ^ 25 + (as.length - 1) * 2 ^ 16
    + unsigned 8 f
  toLE 4 hdr ++ xs.flatMap (fun x => limbBytes x bot n) ++ (if spx then toLE 8 (spWord as) else [])

/-- The list in pieces of `n`, at most `fuel` of them. -/
def chunksOf {α : Type} (n : Nat) : Nat → List α → List (List α)
  | 0, _ => []
  | fuel + 1, l => if l.isEmpty then [] else l.take n :: chunksOf n fuel (l.drop n)

/-- The groups of a transfer: 32 elements each but the last. -/
def xaftGroups (f : Int) (as : List Acc) : List Byte :=
  (chunksOf 32 as.length as).flatMap (xaftGroup f)

/-- What a decoded group holds. -/
structure XaftGroup where
  flo : Nat
  accs : List Acc
  size : Nat
  limbs : Nat
deriving DecidableEq, Repr

/-- One element's X from its limbs (R53); none when the upper bits of a limb 4 are not its sign. -/
def xaftElem (b : List Byte) (top n : Nat) : Option Int :=
  let w := signed (32 * n) (leNat (b.take (4 * n)))
  let x := w * ((2 ^ (32 * (top + 1 - n)) : Nat) : Int)
  if top = 4 ∧ x ≠ wrap136 x then none else some x

def xaftElems (top n : Nat) : Nat → List Byte → Option (List Int)
  | 0, _ => some []
  | k + 1, b =>
    match xaftElem b top n, xaftElems top n k (b.drop (4 * n)) with
    | some x, some t => some (x :: t)
    | _, _ => none

/-- Decode the group at the front of `b`, of which `rest` elements remain in the transfer; none when
it is malformed (R53). -/
def xaftDecode (rest : Nat) (b : List Byte) : Option XaftGroup :=
  let h := leNat (b.take 4)
  let spx := h / 2 ^ 31 % 2 = 1
  let n := h / 2 ^ 28 % 8
  let top := h / 2 ^ 25 % 8
  let ne := h / 2 ^ 16 % 32 + 1
  let size := 4 + 4 * n * ne + (if spx then 8 else 0)
  if b.length < 4 ∨ n = 0 ∨ 5 < n ∨ 4 < top ∨ top + 1 < n ∨ ne ≠ min 32 rest ∨ b.length < size then none
  else
    match xaftElems top n ne (b.drop 4) with
    | none => none
    | some xs =>
      let sw := if spx then leNat ((b.drop (4 + 4 * n * ne)).take 8) else 0
      let sps := (List.range ne).map (fun i => BitVec.ofNat 2 (sw / 4 ^ i))
      some ⟨h % 256, (xs.zip sps).map (fun p => ⟨p.1, p.2⟩), size, n⟩

/-- The groups that hold `rest` elements; none when one is malformed or bytes are left over (R53). -/
def xaftParts : Nat → Nat → List Byte → Option (List XaftGroup)
  | 0, rest, b => if rest = 0 ∧ b = [] then some [] else none
  | fuel + 1, rest, b =>
    if rest = 0 then (if b = [] then some [] else none)
    else (xaftDecode rest b).bind (fun g =>
      (xaftParts fuel (rest - g.accs.length) (b.drop g.size)).map (fun t => g :: t))

/-- FLO of every group is F[7:0]. -/
def floAgrees (f : Int) (gs : List XaftGroup) : Bool := gs.all (fun g => g.flo == unsigned 8 f)

/-- The entries of a transfer whose groups are well formed and carry F[7:0]. -/
def xaftDecodeAll (f : Int) (fuel rest : Nat) (b : List Byte) : Option (List Acc) :=
  ((xaftParts fuel rest b).filter (floAgrees f)).map (fun l => l.flatMap XaftGroup.accs)

/-- The 16-byte header and the groups of an XAF-T image (R54). -/
def xaftImage (f : Int) (as : List Acc) : List Byte :=
  let g := xaftGroups f as
  toLE 2 (unsigned 16 f) ++ toLE 2 0 ++ toLE 4 as.length ++ toLE 8 (16 + g.length) ++ g

end Sys2Proof.Machine
end

