-- ==== Sys2Proof/Machine/Exact.lean ====
section
/-! DEFINITION. Granules and exact accumulation (R13 to R22), the floor (R15 to R18), and the winners
of max and min (R28, R116, R117). -/

namespace Sys2Proof.Machine

/-- The special flag code of a decoded value (table of flag codes, chapter 01). -/
def flagCode : XVal → BitVec 2
  | .fin _ => 0b00#2
  | .pinf => 0b01#2
  | .ninf => 0b10#2
  | .nan => 0b11#2

/-- What one granule delivers: Q_j, g_j and its NaN and Inf events (R19, R20). -/
structure Granule where
  q : Int
  g : BitVec 2
  en : Bool
  ei : Bool
deriving DecidableEq, Repr

/-- Running sum, flag and events over the pairs of a granule. -/
structure GranSum where
  s : Dy
  g : BitVec 2
  en : Bool
  ei : Bool
deriving DecidableEq, Repr

def granStep (acc : GranSum) (p : XVal × XVal) : GranSum :=
  match p with
  | (.fin a, .fin b) => { acc with s := dyAdd acc.s (dyMul a b) }
  | (.nan, _) => { acc with g := acc.g ||| 0b11#2, en := true }
  | (_, .nan) => { acc with g := acc.g ||| 0b11#2, en := true }
  | (a, b) =>
    if xIsZero a || xIsZero b then { acc with g := acc.g ||| 0b11#2, en := true }
    else
      { acc with g := acc.g ||| (if xor (xSign a) (xSign b) then 0b10#2 else 0b01#2), ei := true }

/-- One granule of R19 under floor `f`. -/
def granule (f : Int) (ps : List (XVal × XVal)) : Granule :=
  let t := ps.foldl granStep ⟨dyZero, 0, false, false⟩
  if dyLe ⟨1, f + 120⟩ (dyAbs t.s) then
    ⟨0, t.g ||| (if t.s.m < 0 then 0b10#2 else 0b01#2), t.en, true⟩
  else ⟨dyRound (dyScale t.s (-f)), t.g, t.en, t.ei⟩

/-- Contribution of a row: the sum of its Q_j, the OR of its g_j, its event counts. -/
structure RowSum where
  q : Int
  g : BitVec 2
  nan : Nat
  inf : Nat
deriving DecidableEq, Repr

def rowZero : RowSum := ⟨0, 0, 0, 0⟩

def rowAdd (r : RowSum) (g : Granule) : RowSum :=
  ⟨r.q + g.q, r.g ||| g.g, r.nan + (if g.en then 1 else 0), r.inf + (if g.ei then 1 else 0)⟩

/-- A row against a column, both as lists of granules (lists of decoded elements). -/
def rowDot (f : Int) (as bs : List (List XVal)) : RowSum :=
  (as.zip bs).foldl (fun r p => rowAdd r (granule f (p.1.zip p.2))) rowZero

/-- X and SP after adding a row's sum (R19 steps 5 and 6). -/
def accAdd (a : Acc) (q : Int) (g : BitVec 2) : Acc := ⟨wrap136 (a.x + q), a.sp ||| g⟩

/-- Two exact accumulators of one floor (R105). -/
def accJoin (a b : Acc) : Acc := accAdd a b.x b.sp

/-! ## The floor -/

def clampInt (lo hi v : Int) : Int := max lo (min hi v)

/-- R16. -/
def autoFloor (ea eb : Int) : Int := clampInt (-512) 511 (ea + eb - 104)

/-- R17. -/
def delayedFloor (gprev : Int) : Int := clampInt (-512) 511 (gprev - 112)

/-! ## Readout of an exact value (R23 step 1) -/

def accValue (a : Acc) (f : Int) : XVal :=
  match a.sp.toNat with
  | 0 => .fin ⟨a.x, f⟩
  | 1 => .pinf
  | 2 => .ninf
  | _ => .nan

/-! ## Winners -/

/-- A winner: its value and logical index. -/
structure Winner where
  v : XVal
  index : Nat
deriving DecidableEq, Repr

def xIsNan : XVal → Bool
  | .nan => true
  | _ => false

/-- R117; `mx` selects max. -/
def winCombine (mx : Bool) (a b : Winner) : Winner :=
  if xIsNan a.v && xIsNan b.v then (if a.index ≤ b.index then a else b)
  else if xIsNan a.v then a
  else if xIsNan b.v then b
  else if (if mx then xLt b.v a.v else xLt a.v b.v) then a
  else if (if mx then xLt a.v b.v else xLt b.v a.v) then b
  else if a.index ≤ b.index then a else b

/-- Combine a nonempty list. -/
def winAll (mx : Bool) : List Winner → Option Winner
  | [] => none
  | w :: t => some (t.foldl (winCombine mx) w)

/-- EXP and SIG of a nonzero value of at most 24 bits (R116). -/
def winSig (d : Dy) : Nat × Int :=
  let n := d.m.natAbs
  let k : Int := 24 - (bitLen n : Int)
  (shiftNat n k, d.e - k)

/-- The 16-byte winner record (R116). -/
def winBytes (w : Winner) : List Byte :=
  let body (sig : Nat) (e : Int) (neg : Bool) (fl : Nat) : List Byte :=
    toLE 8 sig ++ toLE 2 (unsigned 16 e) ++ toLE 2 (fl * 256 + (if neg then 128 else 0))
      ++ toLE 4 w.index
  match w.v with
  | .fin d => if d.m = 0 then body 0 0 false 0
    else let p := winSig d; body p.1 p.2 (decide (d.m < 0)) 0
  | .pinf => body 0 0 false 1
  | .ninf => body 0 0 true 2
  | .nan => body 0 0 false 3

/-- A winner record read back; reserved bits are ignored. -/
def winRead (b : List Byte) : Winner :=
  let sig := leNat (b.take 3)
  let e := signed 16 (leNat ((b.drop 8).take 2))
  let h := leNat ((b.drop 10).take 2)
  let idx := leNat ((b.drop 12).take 4)
  let v : XVal :=
    match h / 256 % 4 with
    | 0 => .fin ⟨if h / 128 % 2 = 1 then -(sig : Int) else (sig : Int), e⟩
    | 1 => .pinf
    | 2 => .ninf
    | _ => .nan
  ⟨v, idx⟩

end Sys2Proof.Machine
end

