-- ==== Sys2Proof/Machine/Stats.lean ====
section
/-! DEFINITION. mix64, linear digests, histogram bins (chapter 06). -/

namespace Sys2Proof.Machine

/-- R129. -/
def mix64 (x : U64) : U64 :=
  let x := x ^^^ (x >>> 31)
  let x := x * 0xD6E8FEB86659FD93#64
  let x := x ^^^ (x >>> 29)
  let x := x * 0xA3B195C44F0E2A6D#64
  x ^^^ (x >>> 32)

/-- p of R130. -/
def digestP : Nat := 2 ^ 61 - 1

/-- w_k of R130. -/
def digestW (dkey : U64) (gid k : Nat) : Nat :=
  (mix64 (dkey ^^^ BitVec.ofNat 64 (gid * 2 ^ 40) ^^^ BitVec.ofNat 64 k)).toNat % digestP

/-- One term x_k w_k of R130; a negative X counts as p - (|X| mod p) (R131). -/
def digestTerm (dkey : U64) (gid k : Nat) (x : Int) : Nat :=
  (x % (digestP : Int)).toNat * digestW dkey gid k % digestP

def digestAdd (a b : Nat) : Nat := (a + b) % digestP

/-- Digest of exact entries from logical index `k` (R131). -/
def digestAccs (dkey : U64) (gid : Nat) : Nat → List Acc → Nat
  | _, [] => 0
  | k, a :: t => digestAdd (digestTerm dkey gid k a.x) (digestAccs dkey gid (k + 1) t)

/-- r16 of R61. -/
def sr16 (key : U64) (gid step idx : Nat) : Nat :=
  (mix64 (mix64 (key ^^^ BitVec.ofNat 64 gid) ^^^ BitVec.ofNat 64 (step * 2 ^ 36)
    ^^^ BitVec.ofNat 64 idx)).toNat / 2 ^ 48

/-- The bin of R124 for base exponent `b`. -/
def histBin (b : Int) (z : XVal) : Nat :=
  match z with
  | .fin d =>
    if d.m = 0 then 0
    else
      let e := dyExp d
      if e < b then 0 else if b + 61 < e then 63 else (e - b + 1).toNat
  | _ => 63

/-- Saturating 32-bit addition (R72, R122). -/
def sat32 (a n : Nat) : Nat := min (a + n) 0xFFFFFFFF

end Sys2Proof.Machine
end

