-- ==== Sys2Proof/Machine/Convert.lean ====
section
/-! DEFINITION. The OCU chain (R23, R24) and the Kerb (R59 to R69). -/

namespace Sys2Proof.Machine

/-! ## Readout -/

/-- T = V s + b, rounded once to FP32 (R23 steps 2 and 3); the flag is the flush. -/
def ocuT32 (v : XVal) (s b : U32) : U32 × Bool :=
  xToFp32 (xAdd (xMul v (fp32Read s)) (fp32Read b))

/-- R24 over the words of a table image (R284): word 0 holds E_LO and MB, words 1 and 2 Y_PINF and
Y_NINF, words 4 + 3s on the segment s as C2, C1, C0. -/
def activate (w : Nat → U32) (t : U32) : U32 :=
  match fp32Read t with
  | .nan => qnan32
  | .pinf => w 1
  | .ninf => w 2
  | .fin d =>
    let elo := signed 8 ((w 0).toNat % 256)
    let mb := (w 0).toNat / 256 % 8
    let n : Int := ((128 / 2 ^ mb : Nat) : Int)
    let sgn := t.toNat / 2 ^ 31
    let idx : Nat :=
      if d.m = 0 then 0
      else
        let e := dyExp d
        if e < elo then 0
        else if elo + n - 1 < e then 127
        else (e - elo).toNat * 2 ^ mb + t.toNat % 2 ^ 23 / 2 ^ (23 - mb)
    let k := 4 + 3 * (sgn * 128 + idx)
    pAdd (pMul (pAdd (pMul (w k) t) (w (k + 1))) t) (w (k + 2))

/-! ## Narrowing -/

/-- What became of one element. -/
inductive Fate where
  | stored
  | flushed
  | saturated
  | infinite
  | nan
  /-- The whole block is to be written with scale 0xFF. -/
  | blockNan
deriving DecidableEq, Repr

structure Narrowed where
  code : Nat
  fate : Fate
deriving DecidableEq, Repr

/-- `n / 2^k` under the mode of R60: 0 RNE, 1 RZ, 2 RSK with `r16`. -/
def roundMode (mode r16 n k : Nat) : Nat :=
  match mode with
  | 1 => n / 2 ^ k
  | 2 => n / 2 ^ k + (if 2 ^ 16 ≤ (n % 2 ^ k) * 2 ^ 16 / 2 ^ k + r16 then 1 else 0)
  | _ => rneShift n k

/-- A magnitude `n × 2^e` to an integer under the mode. -/
def roundTo (mode r16 n : Nat) (e : Int) : Nat :=
  if 0 ≤ e then n * 2 ^ e.toNat else roundMode mode r16 n (-e).toNat

/-- Largest finite code of the matching sign (R66). -/
def elemMax (k : Elem) (neg : Bool) : Nat :=
  match k with
  | .int8 => if neg then 0x80 else 0x7F
  | .int4 => if neg then 0x8 else 0x7
  | .mxint8 => if neg then 0x81 else 0x7F
  | k => elemMaxCode k + (if neg then 2 ^ (elemBits k - 1) else 0)

/-- A block format whose NaN is a block scale of 0xFF (R66). -/
def scaleNan (f : Fmt) : Bool :=
  match f with
  | .mxfp6e2m3 | .mxfp6e3m2 | .mxfp4 | .nx6 | .nx4 | .mxint8 => true
  | _ => false

/-- An overflow or an infinite z under KERB 0 SAT, 1 INF, 2 NAN (R66). -/
def kerbOver (f : Fmt) (k : Elem) (kerb : Nat) (neg : Bool) : Narrowed :=
  match kerb with
  | 1 =>
    match elemInfCode k with
    | some c => ⟨c + (if neg then 2 ^ (elemBits k - 1) else 0), .infinite⟩
    | none => ⟨elemMax k neg, .saturated⟩
  | 2 =>
    if scaleNan f then ⟨0, .blockNan⟩
    else
      match elemNanCode k with
      | some c => ⟨c, .nan⟩
      | none => ⟨elemMax k neg, .saturated⟩
  | _ => ⟨elemMax k neg, .saturated⟩

/-- The NaN outcome of R66. -/
def kerbNan (f : Fmt) (k : Elem) : Narrowed :=
  if scaleNan f then ⟨0, .blockNan⟩
  else
    match elemNanCode k with
    | some c => ⟨c, .nan⟩
    | none => ⟨0, .nan⟩

/-- R59. -/
def narrowFp (f : Fmt) (k : Elem) (kerb mode r16 : Nat) (d : Dy) : Narrowed :=
  if d.m = 0 then ⟨0, .stored⟩
  else
    let neg := decide (d.m < 0)
    let e := dyExp d
    let n0 := roundTo mode r16 d.m.natAbs (d.e - (e - (elemM k : Int)))
    let n := if n0 = 2 ^ (elemM k + 1) then 2 ^ elemM k else n0
    let e := if n0 = 2 ^ (elemM k + 1) then e + 1 else e
    let maxv := match decodeElem k (elemMaxCode k) with
      | .fin v => v
      | _ => dyZero
    if dyLt maxv ⟨(n : Int), e - (elemM k : Int)⟩ then kerbOver f k kerb neg
    else if e < 1 - (elemBias k : Int) then ⟨0, .flushed⟩
    else
      ⟨(if neg then 2 ^ (elemBits k - 1) else 0) + (e + (elemBias k : Int)).toNat * 2 ^ elemM k
        + (n - 2 ^ elemM k), .stored⟩

/-- R63; MXINT8 has 6 fraction bits. -/
def narrowInt (f : Fmt) (k : Elem) (kerb mode r16 : Nat) (d : Dy) : Narrowed :=
  let neg := decide (d.m < 0)
  let g : Int := if k = .mxint8 then 6 else 0
  let n := roundTo mode r16 d.m.natAbs (d.e + g)
  let lim := match k with
    | .int8 => if neg then 128 else 127
    | .int4 => if neg then 8 else 7
    | _ => 127
  if lim < n then kerbOver f k kerb neg
  else ⟨unsigned (elemBits k) (if neg then -(n : Int) else (n : Int)), .stored⟩

/-- One element after clipping and division by its block's scale (R64 steps 1, 4, 5). -/
def narrowElem (f : Fmt) (k : Elem) (kerb mode r16 : Nat) (z : XVal) : Narrowed :=
  match z with
  | .nan => kerbNan f k
  | .pinf => kerbOver f k kerb false
  | .ninf => kerbOver f k kerb true
  | .fin d => if elemIsInt k then narrowInt f k kerb mode r16 d else narrowFp f k kerb mode r16 d

/-- R64 step 2: the clipped value and whether it was clipped. -/
def clipTo (c : Option Dy) (z : XVal) : XVal × Bool :=
  match c with
  | none => (z, false)
  | some c =>
    match z with
    | .nan => (.nan, false)
    | .fin d => if dyLt c (dyAbs d) then (.fin (if d.m < 0 then dyNeg c else c), true) else (z, false)
    | .pinf => (.fin c, true)
    | .ninf => (.fin (dyNeg c), true)

/-! ## Blocks -/

/-- The larger finite magnitude, none when no finite value is nonzero. -/
def amaxStep (a : Option Dy) (z : XVal) : Option Dy :=
  match z with
  | .fin d =>
    if d.m = 0 then a
    else
      match a with
      | none => some (dyAbs d)
      | some m => if dyLt m (dyAbs d) then some (dyAbs d) else a
  | _ => a

def amaxOf (zs : List XVal) : Option Dy := zs.foldl amaxStep none

/-- Scale exponent of R68: none when amax is 0. -/
def scaleExp (k : Elem) (amax : Option Dy) : Option Int :=
  amax.map (fun a => clampInt (-127) 127 (dyExp a - elemEmax k))

/-- Shift of a sub-block (R69). -/
def subShift (amax : Dy) (sub : List XVal) : Nat :=
  match amaxOf sub with
  | none => 3
  | some s => min 3 (dyExp amax - dyExp s).toNat

/-- One written element with what the statistics need of it. -/
structure OutElem where
  code : Nat
  /-- The decoded value of the code written (the stored-value fields of R70). -/
  stored : XVal
  fate : Fate
  clipped : Bool
deriving DecidableEq, Repr

/-- A written block: elements, scale code, shift byte. -/
structure OutBlock where
  elems : List OutElem
  scale : Nat
  shifts : Nat
deriving DecidableEq, Repr

/-- The controls of the Kerb, from the output context and the instruction (R55). -/
structure Kerb where
  fmt : Fmt
  elem : Elem
  kerb : Nat
  mode : Nat
  clip : Option Dy
deriving DecidableEq, Repr

def isBlockNan (n : Narrowed) : Bool := n.fate == .blockNan

/-- A block of at most 32 elements (all elements of a line for other formats), each z with the r16
that RSK would draw. An infinity in a block whose amax is 0 takes its outcome of R66 (log 20: DESIGN CHOICE, unsafe). -/
def narrowBlock (c : Kerb) (zs : List (XVal × Nat)) : OutBlock :=
  let cl := zs.map (fun p => (clipTo c.clip p.1, p.2))
  let vals := cl.map (fun p => p.1.1)
  let blk := fmtIsBlock c.fmt
  let amax := amaxOf vals
  let se := (scaleExp c.elem amax).getD (-127)
  let sh (i : Nat) : Nat :=
    match amax with
    | some a => if fmtIsNx c.fmt then subShift a ((vals.drop (8 * i)).take 8) else 0
    | none => 0
  let shifts := [sh 0, sh 1, sh 2, sh 3]
  let div (i : Nat) (v : XVal) : XVal :=
    match v with
    | .fin d => if blk then .fin (dyScale d (-(se - ((shifts.getD (i / 8) 0 : Nat) : Int)))) else v
    | v => v
  let ns := (cl.zipIdx).map (fun p => narrowElem c.fmt c.elem c.kerb c.mode p.1.2 (div p.2 p.1.1.1))
  let bad := ns.any isBlockNan
  let scale := if bad then 0xFF else (se + 127).toNat
  let sb := if bad then 0
    else shifts.getD 0 0 + 4 * shifts.getD 1 0 + 16 * shifts.getD 2 0 + 64 * shifts.getD 3 0
  let out (i : Nat) (n : Narrowed) (clipped : Bool) : OutElem :=
    if bad then ⟨0, .nan, .blockNan, clipped⟩
    else ⟨n.code, decodeIn c.fmt n.code scale (shifts.getD (i / 8) 0), n.fate, clipped⟩
  ⟨((ns.zip cl).zipIdx).map (fun p => out p.2 p.1.1 p.1.2.1.2), scale, sb⟩

/-! ## Statistics of written elements (R67, R71, R122, R124, R133) -/

/-- What a set of written elements adds to its context. -/
structure StatDelta where
  elems : Nat
  flush : Nat
  sat : Nat
  clip : Nat
  nan : Nat
  inf : Nat
  zero : Nat
  maxe : Int
  ymaxe : Int
  digest : Nat
  bins : List Nat
deriving DecidableEq, Repr

def statZero : StatDelta := ⟨0, 0, 0, 0, 0, 0, 0, -256, -256, 0, []⟩

def b2n (b : Bool) : Nat := if b then 1 else 0

/-- R70: the smallest E that covers a finite magnitude. -/
def xTop : XVal → Int
  | .fin d => dyTop d
  | _ => -256

/-- One element's contribution: `z` before the Kerb, `flush3` the flush of R23 step 3. -/
def statElem (o : OutElem) (y32 : U32) (z : XVal) (flush3 : Bool) (dig : Nat) (bin : Option Nat) :
    StatDelta :=
  let bn := o.fate == .blockNan
  let fl := !bn && (flush3 || o.fate == .flushed)
  { elems := 1
    flush := b2n fl
    sat := b2n (o.fate == .saturated)
    clip := b2n o.clipped
    nan := b2n (bn || o.fate == .nan)
    inf := b2n (o.fate == .infinite)
    zero := b2n (!bn && xIsZero z && !fl)
    maxe := xTop o.stored
    ymaxe := fp32Top y32
    digest := dig
    bins := bin.toList }

def statJoin (a b : StatDelta) : StatDelta :=
  { elems := a.elems + b.elems
    flush := a.flush + b.flush
    sat := a.sat + b.sat
    clip := a.clip + b.clip
    nan := a.nan + b.nan
    inf := a.inf + b.inf
    zero := a.zero + b.zero
    maxe := max a.maxe b.maxe
    ymaxe := max a.ymaxe b.ymaxe
    digest := digestAdd a.digest b.digest
    bins := a.bins ++ b.bins }

/-- R58 EMAXF; none for block and exact formats. -/
def emaxF : Fmt → Option Int
  | .fp32 | .bf16 => some 128
  | .fp16 | .e5m2 => some 16
  | .e4m3 => some 9
  | .e3m2 => some 5
  | .e2m3 | .e2m1 | .int4 => some 3
  | .int8 => some 7
  | _ => none

/-- KERB policies that CTX_DEFINE accepts (R65). -/
def kerbAllowed (f : Fmt) (kerb : Nat) : Bool :=
  match f with
  | .fp32 | .bf16 | .fp16 | .e5m2 | .mxfp8e5m2 => decide (kerb ≤ 2)
  | .e4m3 | .mxfp8e4m3 | .nx8 | .mxfp6e2m3 | .mxfp6e3m2 | .mxfp4 | .nx6 | .nx4 | .mxint8 =>
    kerb == 0 || kerb == 2
  | _ => kerb == 0

/-- Default KERB of a format (R65). -/
def kerbDefault : Fmt → Nat
  | .fp32 | .bf16 | .fp16 | .e5m2 | .mxfp8e5m2 => 1
  | _ => 0

end Sys2Proof.Machine
end

