-- ==== Sys2Proof/Config.lean ====
section
/-! DEFINITION. What an implementation fixes and what the manual leaves open: uninterpreted constants,
nothing in Lean can evaluate them (logs 10, 12, 14, 15, 146, 148). -/

namespace Sys2Proof.Config

/-- A fresh 64-bit value that the manual does not fix (an entropy draw, a byte left by a failed
write), by the model's free counter (log 10: DESIGN CHOICE, safe). -/
opaque freeWord : Nat → BitVec 64

/-- SHA-256 of a byte string (R335, R342): uninterpreted (log 12: DESIGN CHOICE, safe). -/
opaque sha256 : List (BitVec 8) → BitVec 256

/-- An ECDSA signature, r then s, whose nonce is drawn from the HMAC_DRBG (R340): by the free counter
and the signed bytes (log 12: DESIGN CHOICE, safe). -/
opaque ecdsaSign : Nat → List (BitVec 8) → BitVec 512

/-- The identity public key that a key generation draws (R340), by the free counter. -/
opaque publicKey : Nat → BitVec 512

/-- Word `w` of the default table of activation slot 0 to 4: published with firmware interface 3.2,
not in the manual (R279; log 14: DESIGN CHOICE, safe). Words are those of the 3,088 B image of R284. -/
opaque defaultActWord : Nat → Nat → BitVec 32

/-- The bytes of the shard table of a RING SEQ, read as 64 entries of resident bytes, streamed bytes
and address of the memory copy: the manual gives the content and not the layout (R152; log 15: DESIGN CHOICE, safe). -/
opaque shardResident : List (BitVec 8) → Nat → Nat
opaque shardStreamed : List (BitVec 8) → Nat → Nat
opaque shardAddr : List (BitVec 8) → Nat → Nat

/-- The bytes of the even (false) or odd half of a shard, from the shard's memory copy: the manual does
not say which bytes go to which half (R152; log 15: DESIGN CHOICE, safe). -/
opaque shardHalf : Bool → List (BitVec 8) → List (BitVec 8)

/-- The private key of a key generation after AES-256 key wrap under the key that the fuse secret gives (R340): by the
secret and the free counter (log 12: DESIGN CHOICE, safe). -/
opaque wrappedKey : BitVec 256 → Nat → BitVec 320

/-- What the 4 KiB header of a scan pattern set says of the set's version and size: the manual gives the content and not
the layout (R345; log 146: DESIGN CHOICE, safe). -/
opaque scanVersionOk : List (BitVec 8) → Bool
opaque scanSize : List (BitVec 8) → Nat

/-- Whether the firmware image of a body hash carries the SHA-256 of a pattern set (R345; log 146: DESIGN CHOICE, safe). -/
opaque scanAccepted : BitVec 256 → BitVec 256 → Bool

/-- The NVM device's erase unit in bytes, at most 64 KiB (R305), and how many spare units its size gives
(R338): the device decides. (log 113: DESIGN CHOICE, unsafe) -/
opaque eraseUnit : Nat
opaque spareUnits : Nat

/-- Firmware's estimate of the Plane's power in W, from the VREQ code that counts and the eight regions' activity
counts: the manual gives no formula (R316; log 148: DESIGN CHOICE, safe). -/
opaque power : Nat → List Nat → Nat

/-- The silicon revision and Nyelfort's JEP106 code of the TAP's IDCODE: the manual gives neither (R310; log 148: DESIGN
CHOICE, safe). -/
opaque revision : BitVec 4
opaque jep106 : BitVec 11

/-- The nine SECDED check bits of a Plaza entry's SP and X (R89): the manual does not give the code's matrix. (log 17:
DESIGN CHOICE, safe) -/
opaque secded : BitVec 138 → BitVec 9

end Sys2Proof.Config
end

