-- ==== Sys2Proof/Machine/State.lean ====
section
/-! DEFINITION. The state of one Plane: every register, store, queue, mode and pin the manual names, as
plain data, and the queue of commands that wait. Tables list only what differs from their default. -/

namespace Sys2Proof.Machine

/-- No command of this block faults: every error the manual names is an effect on the state, so this
type has no constructor and nobody raises it (safe). -/
inductive Fault where
deriving DecidableEq, Repr

/-- Refusals. -/
inductive Refusal where
  /-- Raised by `exec` for a command that has no meaning in the model (safe: nothing can be proved of
  it). -/
  | notModelled (mnemonic : String)
deriving DecidableEq, Repr

/-- The record codes of R332. -/
inductive Code where
  | laneParity
  | residueRetry
  | residueHard
  | plazaAdderRetry
  | plazaAdderHard
  | plazaCe
  | plazaUe
  | bufCe
  | bufUe
  | seqFault
  | fetchError
  | illegalOp
  | fieldRange
  | branchRange
  | loopDepth
  | memAlign
  | memWindow
  | bufRange
  | bufRole
  | handleRange
  | plazaAlign
  | plazaRange
  | blockAlign
  | redLength
  | granuleMismatch
  | hqInvalid
  | ctxPageBad
  | partViolation
  | weightMismatch
  | plazaNotOpen
  | plazaState
  | squareDecl
  | squareFull
  | stepSkew
  | streamBusy
  | streamCfg
  | rowSlot
  | ringCfg
  | crossMask
  | ringLen
  | xferFailed
  | sealOpenGroup
  | holdRead
  | floorMismatch
  | lateContribution
  | streamIndex
  | xafFormat
  | updFallback
  | updSingular
  | memError
  | squareUndeclared
  | squareStall
  | ringLag
  | crossStall
  | mutualWaitBreak
  | mutualWait
  | mutualWaitHard
  | holdFull
  | collDesc
  | collTimeout
  | floorMiss
  | preFull
  | digestFail
  | totalFail
  | collOrphan
  | replicaMismatch
  | sealStall
  | restartStall
  | replayExhausted
  | rollback
  | partDown
  | rgnParity
  | rocFault
  | marginLow
  | plCe
  | plUe
  | lockstep
  | fence
  | unfence
  | quarantine
  | portStall
  | portProtocol
  | stuckInput
  | strapChange
  | hostEvent
  | vreqTimeout
  | nvmUnitRetired
  | boot
  | timeNote
  | sessionDetach
  | ledgerReset
  | recordsLost
  | identityBad
  | scanPass
  | scanFail
  | scanSetBad
deriving DecidableEq, Repr


/-! ## Registers, mailboxes, sessions (chapter 12) -/

/-- PL_STATUS.STATE (R268). -/
inductive PlState where
  | reset
  | boot
  | ready
  | fatal
  | test
  | halted
deriving DecidableEq, Repr

/-- Which reset input holds the Plane (R309); none once it has risen. -/
inductive Held where
  | no
  | warm
  | cold
  | power
deriving DecidableEq, Repr

/-- The plane page (R268), and the answer of the latest control-port access (R304). -/
structure Regs where
  state : PlState
  held : Held
  fwslot : BitVec 1
  release : U32
  ctxBase : BitVec 52
  histBase : BitVec 52
  spillBase : BitVec 52
  bbmBase : BitVec 52
  log2n : BitVec 5
  widx : U32
  ncause : BitVec 5
  nen : BitVec 5
  nline : BitVec 4
  rspData : U64
  rspErr : Bool
deriving DecidableEq, Repr

/-- A verb's response: STATUS and V0 to V6 (R273). -/
structure Resp where
  status : Nat
  v : List Nat
deriving DecidableEq, Repr

/-- What a verb that a mailbox is executing waits for (R275). -/
inductive Waits where
  /-- A slot becomes FREE (TASK_STOP). -/
  | slotFree (veng slot : Nat)
  /-- The engine that hosts a virtual engine becomes ACTIVE (TASK_START): the argument words, the session
  and its partition (R361). -/
  | engineActive (w : List Nat) (session part : Nat)
  /-- The switch of a transaction (TXN_COMMIT). -/
  | txnSwitch (handle : Nat)
  /-- The summary of an epoch is sent (COMMIT_POLICY CONTINUE). -/
  | summary (part epoch : Nat)
  /-- Step 4 of a rollback (COMMIT_POLICY ROLLBACK). -/
  | restored (part epoch : Nat)
  /-- A commit (COMMIT_POLICY COMMIT). -/
  | committed (part epoch : Nat)
  /-- A record or an NVM write of the verb (TIME_NOTE, FENCE_ENGINE, UNFENCE_ENGINE, LEDGER_READ), by the
  verb's acceptance order. -/
  | nvm (key : Nat)
  /-- The FENCE record of FENCE_ENGINE, by its acceptance order, and then its moves. -/
  | fence (engine key : Nat)
  /-- The moves of a fence, and V0 (FENCE_ENGINE). -/
  | moves (engine v0 : Nat)
  /-- A scan (SCAN_ENGINE). -/
  | scan (engine : Nat)
  /-- A replay segment (REPLAY_SEGMENT). -/
  | replay (part : Nat)
deriving DecidableEq, Repr

structure Exec where
  verb : Nat
  reqid : Nat
  waits : Waits
  /-- False once its session has closed: the verb runs on, its response is discarded (R278). -/
  answer : Bool
deriving DecidableEq, Repr

/-- A mailbox page (R273) and the verb it executes. -/
structure Mbx where
  reqTail : BitVec 8
  reqHead : BitVec 8
  rspHead : BitVec 8
  rspTail : BitVec 8
  nline : BitVec 4
  rien : Bool
  dbErr : Bool
  rsp : Bool
  isOpen : Bool
  session : Nat
  exec : Option Exec
  /-- TAIL when its session began to end: what stands before it is answered SESSION_CLOSED (R278). -/
  closeTail : Option (BitVec 8)
deriving DecidableEq, Repr

/-- An open session (R276, R277). -/
structure Session where
  part : Nat
  mgmt : Bool
  lease : Nat
  cookie : U32
  /-- It has begun to close and waits for its tasks (R278). -/
  closing : Bool
deriving DecidableEq, Repr

/-- A staged setting (R256). -/
inductive Staged where
  | ctx (id : Nat) (update : Bool) (supply : BitVec 32) (image : BitVec 1024) (session : Nat)
  | release (id : Nat)
  | act (slot : Nat) (words : List U32)
  | scale (idx : Nat) (v : U32)
  | row (idx : Nat) (words : List U32)
  | duty (code : Nat) (host : Bool)
  | key (sr : Bool) (slot : Nat) (k : U64)
deriving DecidableEq, Repr

/-- An accepted TXN_COMMIT: AT_EPOCH when given, and its acceptance order (R257, R258). -/
structure TxnCommit where
  atEpoch : Option Nat
  order : Nat
deriving DecidableEq, Repr

structure Txn where
  mbx : Nat
  session : Nat
  part : Nat
  staged : List Staged
  commit : Option TxnCommit
deriving DecidableEq, Repr

/-- Settings of a partition (R56, R24, R294, R130, R61). Bit d of `duties` is 1 for host-assisted. -/
structure Settings where
  scale : Sparse U32
  act : Sparse (List U32)
  duties : BitVec 12
  dkeys : Sparse U64
  srkeys : Sparse U64
deriving DecidableEq, Repr

/-- COMMIT_POLICY SET (R288). -/
structure Policy where
  hold : Bool
  sealSlot : Option Nat
  replicaSlot : Option Nat
  holdHq : Nat
deriving DecidableEq, Repr

/-! ## Tasks and virtual engines (chapters 04, 05, 07, 08) -/

inductive TaskSt where
  | free
  | active
  | stopped
  | ending
deriving DecidableEq, Repr

/-- A running loop: body from `start` to `last`, iterations left after the current one (R184). -/
structure LoopE where
  start : Nat
  last : Nat
  left : Nat
deriving DecidableEq, Repr

/-- What a checkpoint of R236 records, and what a task holds beside it. -/
structure TaskRegs where
  pc : Nat
  /-- s1 to s31; s0 reads 0 (R163). -/
  s : Sparse U64
  /-- p1 to p7 in bits 1 to 7; p0 reads 1. -/
  p : BitVec 8
  loops : List LoopE
  prio : Nat
deriving DecidableEq, Repr

structure Checkpoint where
  epoch : Nat
  regs : TaskRegs
  session : Nat
deriving DecidableEq, Repr

/-- A task slot (R163). -/
structure Task where
  st : TaskSt
  regs : TaskRegs
  epoch : Nat
  session : Nat
  /-- Tags that a failed transfer of the task has left (R194). -/
  failTags : BitVec 16
  /-- ENDING by a HALT: a transfer that fails later still stops the task (R194). -/
  byHalt : Bool
  /-- Its waiting read has raised SQUARE_STALL (R109). -/
  stallRec : Bool
  /-- The two latest task checkpoints (R236). -/
  checks : List Checkpoint
deriving DecidableEq, Repr

/-- A loaded program (R284). -/
structure Prog where
  addr : Nat
  ninsn : Nat
  ranges : List (Nat × Nat)
  claims : BitVec 256
  session : Nat
deriving DecidableEq, Repr

/-- A load of weights (R81, R171): decoded columns of K elements. -/
structure WLoad where
  slot : Nat
  bctx : Nat
  g0 : Nat
  gcnt : Nat
  paired : Bool
  cols : List (List XVal)
  /-- It came from a swapping part, and whether a SWAP has issued since (R172). -/
  swapping : Bool
  swapped : Bool
  /-- Buffer regions reserved under R85. -/
  regions : List (Nat × Nat)
deriving DecidableEq, Repr

inductive GroupSt where
  | free
  | opened
  | square (sq : Nat)
deriving DecidableEq, Repr

/-- A Plaza group's descriptor (R91), with the epoch that opened it. -/
structure Group where
  st : GroupSt
  owner : Nat
  spl : Bool
  f : Int
  gnan : Nat
  ginf : Nat
  epoch : Nat
  /-- RELEASED Square record that covered the group and still marks late adds (R110). -/
  past : Option Nat
deriving DecidableEq, Repr

inductive SquareSt where
  | opened
  | closed
  | released
deriving DecidableEq, Repr

/-- A Square record (R104) with its claim sum (R231); FREE records are not listed. -/
structure Square where
  st : SquareSt
  owner : Nat
  m : Nat
  baseGrp : Nat
  f : Int
  closeCnt : Nat
  gid : Nat
  ctx : Nat
  offset : Nat
  tally : Nat
  epoch : Nat
  late : Nat
  claim : Nat
  /-- Digest key of the declaration's context (R231). -/
  dkey : U64
deriving DecidableEq, Repr

/-- A virtual engine's latest arrival on a Crossing ID (R157): released or not yet. -/
inductive Arrival where
  | pending
  | released
deriving DecidableEq, Repr

/-- One half of the late area (R111). -/
structure LateHalf where
  epoch : Nat
  used : Nat
  kept : Nat
  dropped : Nat
deriving DecidableEq, Repr

/-- What a RING sequence at a stop holds of one half (R152 to R154). A half moves in buffers of 64 KiB; counts are in
buffers, from the start of the sequence. -/
structure RingHalf where
  /-- Where the half of this turn stands: units of 128 B, half select in bit 15. -/
  place : BitVec 16
  /-- Buffers at the stop that it has not passed on, the oldest first: what is left of this turn's, then those of
  coming turns. -/
  data : List Byte
  /-- Buffers of this turn that an LDW has read. -/
  read : List Nat
  arrived : Nat
  passed : Nat
deriving DecidableEq, Repr

structure RingSeq where
  slot : Nat
  epoch : Nat
  table : List Byte
  halfBufs : Nat
  lagLimit : Nat
  turn : Nat
  even : RingHalf
  odd : RingHalf
  detached : Bool
  lagRec : Bool
  ended : Bool
deriving DecidableEq, Repr

/-- A virtual engine. -/
structure VEng where
  host : Nat
  tasks : Sparse Task
  /-- The slot that issued last, by priority; 15 before the first (R164). -/
  rr : Sparse Nat
  prog : Option Prog
  bufCfg : U32
  /-- Half B is FRONT (R137). -/
  frontB : Bool
  buf : Mem
  active : Option WLoad
  shadow : Option WLoad
  plaza : Sparse Acc
  groups : Sparse Group
  squares : Sparse Square
  arrivals : Sparse Arrival
  ring : Option RingSeq
  late : Sparse LateHalf
  /-- The host it moves to once its issued work is done (R115). -/
  moveTo : Option Nat
  /-- Counters of R365, by position 0 to 14. -/
  stalls : Sparse Nat
deriving DecidableEq, Repr

inductive GAccess where
  | add
  | ovw
  | read
deriving DecidableEq, Repr

/-- What completion of an instruction in flight does beyond freeing what it holds. -/
inductive Finish where
  | plain
  /-- Local contributions into Squares commit: Square, entries, digest (R106, R231). -/
  | tally (l : List (Nat × Nat × Nat))
  | crossArrive (cid : Nat)
  | sealArrive
  | coll (id : Nat)
  | ring
  /-- RING SEQ: where the stop puts the halves of turn 0. -/
  | ringSeq (place : RingPlace)
  /-- LOAD: memory range, then the buffer's engine and its first byte (half included). -/
  | load (addr len veng byte : Nat)
  /-- XLOAD and XTLOAD: memory address, first group, rows, ADD. -/
  | xload (image : Bool) (addr bgrp m : Nat) (add : Bool)
  /-- ROW_INSTALL: the entry, and the range it copies. -/
  | install (row : Nat) (entry : U32) (addr len veng byte : Nat)
  /-- SQUARE joins its tag and has no further effect. -/
  | square
deriving DecidableEq, Repr

/-- An instruction issued and not yet complete (R189, R95, R187). -/
structure Flight where
  id : Nat
  veng : Nat
  slot : Nat
  part : Nat
  epoch : Nat
  tag : Option Nat
  memTrk : Bool
  ringTrk : Bool
  groups : List (Nat × GAccess)
  /-- Buffer regions (96 per engine) read and written, with the buffer's engine. -/
  bufRd : List (Nat × Nat)
  bufWr : List (Nat × Nat)
  ctxs : List Nat
  failed : Bool
  /-- Parts of its reads that failed, as (address, length) (R194). -/
  bad : List (Nat × Nat)
  finish : Finish
deriving DecidableEq, Repr

/-! ## Data movement (chapter 07) -/

/-- A buffer that R160 has written to the mutual-wait area of an engine: its place there, and the bytes of it that
hold rows the stream still needs. -/
structure MwBuf where
  veng : Nat
  offset : Nat
  size : Nat
  lo : Nat
  hi : Nat
deriving DecidableEq, Repr

/-- A stream context (R141): its image, with what the stream holds. -/
structure Stream where
  img : BitVec 512
  /-- Handles held, oldest first; the first RESV are the reserved minimum once taken (R142). -/
  held : List Nat
  ready : Bool
  /-- Rows of the current buffer that are filled or processed, and rows that it offers. -/
  rows : Nat
  lim : Nat
  /-- Buffers to be refilled, the youngest first (R160). -/
  spilled : List MwBuf
  stopped : Bool
  /-- Its Crossing has released; handles that found no room in FREE_HQ are still to return (R158, R363). -/
  leaving : Bool
  owner : Nat
  /-- Task slot and epoch of the STREAM_START. -/
  slot : Nat
  epoch : Nat
deriving DecidableEq, Repr

/-- A handoff queue (R147). -/
structure Hq where
  part : Nat
  en : Bool
  items : List Nat
  puts : Nat
  head : Nat
  session : Nat
deriving DecidableEq, Repr

/-- A Crossing ID in use (R156, R157). -/
structure Crossing where
  mask : U64
  issued : U64
  arrived : U64
  released : Bool
  passed : U64
  recorded : Bool
deriving DecidableEq, Repr

/-- The data of a RING SEND or MCAST for one receiver, not yet delivered (R179). -/
structure RingSend where
  flight : Nat
  src : Nat
  slot : Nat
  dst : Nat
  data : List Byte
  /-- A multicast, and whether its receiver's lag has raised RING_LAG (R155). -/
  mcast : Bool
  lagRec : Bool
deriving DecidableEq, Repr

/-- A RING RECV that waits for its source (R179). -/
structure RingRecv where
  flight : Nat
  veng : Nat
  src : Nat
  buf : Nat
  half : Nat
  unit : Nat
  /-- Bytes to the end of its buffer. -/
  room : Nat
  pc : Nat
  iss : Issue
  f : RingF
deriving DecidableEq, Repr

/-! ## Hub (chapter 10) -/

/-- A collective of this Plane (R221). -/
structure Coll where
  id : Nat
  flight : Nat
  veng : Nat
  slot : Nat
  part : Nat
  epoch : Nat
  op : Nat
  gslot : Nat
  cid : Nat
  ctx : Nat
  /-- Settings at its issue: format, GLOBAL_ID and digest key of the context, key of slot 0 (R257). -/
  fmt : Option Fmt
  gid : Nat
  key : U64
  key0 : U64
  rel : Bool
  srck : Nat
  base : Nat
  m : Nat
  offset : Nat
  count : Nat
  shard : Nat
  root : Nat
  src : Nat
  dst : Nat
  list : List (List Nat)
  /-- Outputs of a PRE that were in the pre-round set when it issued. -/
  outs : List Nat
  /-- Group level of the exchange under way (PARENT chain), and its running result. -/
  level : Nat
  result : List Int
  /-- Payloads received, by source rank, first item and bytes. -/
  got : List (Nat × Nat × List Byte)
  /-- Items received from owners that are already in place. -/
  placed : Nat
  done : Bool
  /-- This Plane's shard is combined and sent on (AR_X, MAXR, MINR, AR_C). -/
  spread : Bool
  dout : Nat
deriving DecidableEq, Repr

/-- A packet sent that awaits its ACK (R230). -/
structure Sent where
  id : Nat
  coll : Option Nat
  part : Nat
  gslot : Nat
  epoch : Nat
  cid : Nat
  offset : Nat
  count : Nat
  rank : Nat
  ptype : Nat
deriving DecidableEq, Repr

/-- Where a landed run came from. -/
inductive RunSrc where
  /-- A packet of a peer: group slot, collective number, rank. -/
  | packet (gslot cid rank : Nat)
  /-- An engine of this Plane, by the flight of its XSEND, or its collective's loopback. -/
  | engine (flight : Nat)
  | loopback (gslot cid : Nat)
deriving DecidableEq, Repr

/-- A run the hub holds (R108). -/
structure HeldRun where
  id : Nat
  part : Nat
  epoch : Nat
  gid : Nat
  offset : Nat
  accs : List Acc
  f : Int
  src : RunSrc
  /-- An ACK goes out once the run has landed: group slot and the packet it answers. -/
  ack : Option (Nat × Packet)
  /-- OUTCOME so far of the packet's parts that have landed. -/
  out : Nat
  recorded : Bool
  /-- What the Plaza's checks find while it lands (R101, R102). -/
  ev : List ArrayEvent
deriving DecidableEq, Repr

/-- A packet held whole: its epoch has not begun here, or its target does not exist yet (R229). -/
structure HeldPkt where
  id : Nat
  gslot : Nat
  pkt : Packet
  ev : List ArrayEvent
  recorded : Bool
deriving DecidableEq, Repr

/-! ## Epochs (chapter 11) -/

/-- A collective entry of the Milestone body (R240), with the context it names. -/
structure CollEntry where
  ggid : Nat
  cid : Nat
  op : Nat
  dout : Nat
  gslot : Nat
  ctx : Nat
  /-- First element and length of this Plane's shard (RS_X). -/
  lo : Nat
  len : Nat
deriving DecidableEq, Repr

/-- A held write under HOLD commit (R250). -/
structure HeldBuf where
  handle : Nat
  addr : Nat
  bytes : List Byte
deriving DecidableEq, Repr

/-- The lists and status of a record or of a merged summary (R239, R240, R245). -/
structure Summary where
  ranks : List Nat
  status : BitVec 16
  counts : List Nat
  groups : List (Nat × Nat × Nat)
  upds : List (Nat × Nat)
  sealedL : List (Nat × Nat × Nat)
  colls : List (Nat × Nat × Nat × Nat)
  miss : List Nat
deriving DecidableEq, Repr

/-- Where an epoch of a partition stands. -/
inductive Phase where
  | running
  /-- The seal Crossing has released. -/
  | released
  /-- Exchanges, rotation and images are done; the fences are out (R238 step 4). -/
  | fencing
  /-- The record is written (R238 step 5). -/
  | formed
deriving DecidableEq, Repr

/-- An uncommitted epoch of a partition. -/
structure EpRec where
  n : Nat
  issued : Bool
  /-- The epoch closes on the partition's behalf (R235). -/
  implicitClose : Bool
  arrived : BitVec 64
  phase : Phase
  status : BitVec 16
  retryCnt : Nat
  fallbackCnt : Nat
  sidxCnt : Nat
  lateCnt : Nat
  flmmCnt : Nat
  detachCnt : Nat
  mwbCnt : Nat
  /-- Contexts written while sealed-class, update contexts that ran with their T. -/
  sealedCtx : List Nat
  /-- Output contexts written (R62). -/
  wrote : List Nat
  updCtx : List (Nat × Nat)
  colls : List CollEntry
  miss : List Nat
  missFull : Bool
  /-- Update contexts whose first fallback is recorded (R213). -/
  fellBack : List Nat
  /-- Histogram slots updated or reset (R128). -/
  hist : List Nat
  /-- Contexts and histogram slots (64 h + b) as this epoch leaves them, where a task of the next one has been at
  them before this epoch's account was taken (R73, R128). -/
  keptCtx : Sparse (BitVec 1024)
  keptHist : Sparse Nat
  keptSlots : List Nat
  /-- Group slots whose maximum exponents have been sent (R226). -/
  exchSent : List Nat
  /-- Boundaries passed (R259). -/
  ordinal : Nat
  held : List HeldBuf
  /-- Bytes that wait for a held buffer, by flight (R250). -/
  heldWait : List (Nat × Nat × List Byte)
  /-- Stall counters and the count of the reference region at the release of the seal Crossing (R368). -/
  snapV : Sparse (Sparse Nat)
  snapR : Sparse (Sparse Nat)
  snapP : Sparse Nat
  relRoc : Nat
  seq : Nat
  own : Option Summary
  hostHold : Bool
  summarySent : Bool
  /-- Pieces of seal traffic: key of number, slot and rank; first word; LAST; bytes (R245). -/
  pieces : List (Nat × Nat × Bool × List Byte)
  got : List (Nat × Summary)
  /-- The lists of the replica group are compared (R244). -/
  replicaDone : Bool
  verdict : Option Bool
  /-- The union of the members' floor-miss lists, with a FAILED verdict (R227). -/
  verdictMiss : List Nat
  /-- Groups whose summaries this Plane has merged (R245). -/
  merged : List Nat
  /-- VERIFIED is being carried out (R248). -/
  taken : Bool
  /-- FAILED has gone down the tree. -/
  downSent : Bool
  stallRec : Bool
  holdFullRec : Bool
deriving DecidableEq, Repr

/-- A TASK_START kept for replay (R253). -/
structure StartRec where
  veng : Nat
  slot : Nat
  epoch : Nat
  regs : TaskRegs
  session : Nat
  done : Bool
deriving DecidableEq, Repr

/-- A journal entry: a transaction that switched in an uncommitted epoch (R259). -/
structure JEntry where
  epoch : Nat
  ordinal : Nat
  staged : List Staged
  /-- It has switched in this attempt. -/
  applied : Bool
deriving DecidableEq, Repr

/-- What a rollback restores to: the state at a Milestone (R253). -/
structure Snapshot where
  epoch : Nat
  ctxs : Sparse (BitVec 1024)
  settings : Settings
  coef : Sparse (List U32)
  preRound : Sparse Nat
deriving DecidableEq, Repr

inductive HaltWhy where
  | exhausted
  | down
  /-- Engine fencing is host-assisted and an engine waits for FENCE_ENGINE (R294). -/
  | fencing
deriving DecidableEq, Repr

/-- A rollback under way (R253, R254). -/
structure Rollback where
  cause : Nat
  first : Nat
  last : Nat
  restored : Bool
  /-- RESTART_READY received: (group slot, rank). -/
  got : List (Nat × Nat)
  sentReady : Bool
  stallRec : Bool
  /-- Union of the members' floor-miss lists, for R227. -/
  miss : List Nat
  missEpoch : Nat
deriving DecidableEq, Repr

/-- REPLAY_SEGMENT in progress (R289, R290). -/
structure Replay where
  mbx : Nat
  first : Nat
  last : Nat
  image : Nat
  log : Nat
  logLen : Nat
  disputed : List (List Byte)
  mask : Nat
  mdigest : Nat
  formed : Nat
  policy : Policy
  /-- The segment ends with this status once the rollback is done (R290). -/
  stop : Option Nat
deriving DecidableEq, Repr

/-- A partition. -/
structure Part where
  defined : Bool
  regions : BitVec 8
  coefFirst : Nat
  coefCount : Nat
  win : List U64
  msBase : BitVec 52
  lastClosed : Nat
  committed : Nat
  pncause : BitVec 7
  pnen : BitVec 7
  pnline : BitVec 4
  settings : Settings
  policy : Policy
  epochs : List EpRec
  snaps : List Snapshot
  journal : List JEntry
  preRound : Sparse Nat
  rollbacks : Nat
  halted : Option HaltWhy
  rollback : Option Rollback
  msSeq : Nat
  starts : List StartRec
  replay : Option Replay
  /-- Contexts to be released when an epoch decides (R278). -/
  relLater : List Nat
  /-- Count of the reference region up to which stall images have been written (R364). -/
  imageRoc : Nat
deriving DecidableEq, Repr

/-! ## Physical engines, regions, pins, ports (chapters 13, 14, 15) -/

inductive Power where
  | active
  | draining
  | gated
  | waking
deriving DecidableEq, Repr

structure Phys where
  power : Power
  latched : Bool
  fieldFence : Bool
  scanPassed : Bool
  scanning : Bool
  /-- Banks with a PLAZA_UE or BUF_UE since the last commit (R102, R260). -/
  ueBanks : List Nat
  /-- The current one of its virtual engines (R191). -/
  cur : Nat
deriving DecidableEq, Repr

structure Region where
  quarantined : Bool
  slack : Nat
  slackMin : Nat
  slackLedger : Nat
  temp : Int
  capped : Bool
  calm : Nat
  level : Nat
  /-- Tokens of the pacing bucket; below 0 for steps that still wait for theirs (R315). -/
  tokens : Int
  parity : Nat
  roc : Nat
  /-- Its count at the latest oscillator check (R322). -/
  rocCheck : Nat
  /-- Counters of R367, by position 0 to 11. -/
  stalls : Sparse Nat
  slackImage : Nat
  tempImage : Int
  /-- The next of the region's ports in the arbiter's turn (R297). -/
  arb : Nat
  /-- The level that a pacing rise waits at until VACK confirms a higher voltage (R318). -/
  hold : Nat
  /-- Steps in which an array or an OCU of the region acted, since the latest power estimate (R316). -/
  activity : Nat
deriving DecidableEq, Repr

structure Pins where
  quiesceN : Bool
  paceIn : BitVec 4
  therm : Bool
  testMode : Bool
  /-- Edges that arrived in between, per line (R307). -/
  edges : Sparse Nat
  ignored : List Nat
  vreq : Nat
  vreqOld : Nat
  vack : Bool
  changing : Bool
  wanted : Option Nat
  timedOut : Bool
  watts : Nat
  /-- What the TAP's selected instrument gave last (R351). -/
  tdo : List Byte
  /-- The reference region, and the count that runs on its oscillator (R323). -/
  reference : Nat
  refRoc : Nat
deriving DecidableEq, Repr

inductive MemOp where
  | read
  | write
  | fence
deriving DecidableEq, Repr

inductive ReqFor where
  | flight (id : Nat)
  | milestone (part epoch : Nat)
  | mirror
  | page (ctx : Nat)
  | spill (veng : Nat)
  | agent
deriving DecidableEq, Repr

/-- A request outstanding on a memory port (R298, R300). -/
structure PReq where
  tag : Nat
  op : MemOp
  addr : Nat
  len : Nat
  owner : ReqFor
  retries : Nat
  part : Option Nat
deriving DecidableEq, Repr

structure MPort where
  reqs : List PReq
  /-- Requests that wait for a free tag or for the end of a host reset. -/
  waiting : List PReq
  hrst : Bool
  stallRec : Bool
deriving DecidableEq, Repr

/-- A packet that waits for credits: route bits, flits left, bytes. -/
structure TxPkt where
  route : Nat
  flits : Nat
  bytes : List Byte
deriving DecidableEq, Repr

structure CPort where
  credits : Nat
  rxCredits : Nat
  /-- Packets whose flits the hub still holds (R108, R303). -/
  rxHeld : List Packet
  txq : List TxPkt
  stallRec : Bool
deriving DecidableEq, Repr

/-! ## Records, ledger, NVM (chapter 14) -/

/-- A black-box record (R324); `detail` holds at most 36 bytes. -/
structure Rec where
  seq : Nat
  roc : Nat
  level : Nat
  source : Nat
  code : Nat
  part : Option Nat
  cont : Bool
  pinned : Bool
  notKept : Bool
  coal : Bool
  detail : List Byte
deriving DecidableEq, Repr

/-- Events that a Milestone record counts and a black-box record reports (R239, R326). -/
inductive Counted where
  | retry
  | fallback
  | index
  | late
  | floor
  | waitBreak
deriving DecidableEq, Repr

/-- What acknowledges a record (R326). -/
inductive Ack where
  | pn (part bit : Nat)
  | pl (bit : Nat)
  | count (part epoch : Nat) (what : Counted)
  /-- The verb that waits under this key. -/
  | respond (key : Nat) (r : Resp)
deriving DecidableEq, Repr

/-- Coalesced repeats of one code at one source (R327), with what their record will acknowledge. -/
structure Coal where
  source : Nat
  code : Nat
  level : Nat
  part : Option Nat
  count : Nat
  acks : List Ack
deriving DecidableEq, Repr

/-- The black box. -/
structure BlackBox where
  queue : List (Rec × List Ack)
  nextSeq : Nat
  ring : Sparse Rec
  first : Sparse Rec
  pin : Nat
  coal : List Coal
  lost : Nat
  lostAcks : List Ack
  /-- Record images that wait for the mirror ring; the first is on its port (R330). -/
  mirror : List (List Byte)
  /-- Torn slots: of the ring, and of the first-fault area with what they hold (R309, R328). -/
  torn : List Nat
  tornFirst : Sparse (List Byte)
deriving DecidableEq, Repr

/-- Ledger counters (R333) and histogram bins (64 h + b, R334). -/
structure Ledger where
  cnt : Sparse Nat
  hist : Sparse Nat
  /-- The slot of the latest flushed image: the one loaded, or flushed since (R337). -/
  last : Option Nat
deriving DecidableEq, Repr

/-- A flushed image: counters, bins and signature (R335). -/
structure Flushed where
  cnt : Sparse Nat
  hist : Sparse Nat
  sig : BitVec 512
deriving DecidableEq, Repr

/-- A configuration copy (R339). -/
structure CfgCopy where
  gen : Nat
  set : Nat
  mask : BitVec 64
deriving DecidableEq, Repr

structure IdentCopy where
  gen : Nat
  serial : BitVec 128
  pub : BitVec 512
  /-- The wrapped private key (R340). -/
  wrapped : BitVec 320
deriving DecidableEq, Repr

/-- A LEDGER_READ that waits for a flush: what acknowledges it, the destination, the failing requests. -/
structure LedgerReader where
  key : Nat
  part : Nat
  dst : Nat
  fails : Fails
deriving DecidableEq, Repr

/-- What an NVM write in progress does once Read Status shows success. -/
inductive NvmWrite where
  /-- A new field fence mask; then the FENCE or UNFENCE of an engine and, for a verb, its key and V0. -/
  | cfg (c : CfgCopy) (engine : Nat) (fence : Bool) (key : Option Nat) (v0 : Nat)
  /-- A ledger copy, with the readers that wait. -/
  | ledger (slot : Nat) (img : Flushed) (readers : List LedgerReader)
deriving DecidableEq, Repr

/-- A copy of the bad-unit list: its generation, the retired units and their spares (R339). -/
structure BadCopy where
  gen : Nat
  pairs : List (Nat × Nat)
deriving DecidableEq, Repr

/-- The commands that the port uses after start-up (R305). -/
inductive NvmCmd where
  | read
  | writeEnable
  | pageProgram
  | erase
  | readStatus
  | readSfdp
deriving DecidableEq, Repr

structure Nvm where
  /-- The port has entered 8D-8D-8D mode (R305, R349). -/
  octal : Bool
  ledger : Sparse Flushed
  cfg : List CfgCopy
  ident : List IdentCopy
  /-- The two copies of the bad-unit list (R339). -/
  bad : List BadCopy
  /-- Retired units that found no spare: a write to them is never acknowledged (R339). -/
  dead : List Nat
  /-- Firmware regions and scan pattern store, by NVM offset; an unlisted byte reads 0xFF. -/
  fw : Mem
  /-- Firmware's writes, and whether the first has been started (R308). -/
  writes : List NvmWrite
  started : Bool
deriving DecidableEq, Repr

/-- Fuses (R352). FUSE_SECRET reaches only the key derivation of R340. -/
structure Fuses where
  fwKeyHash : BitVec 256
  secret : BitVec 256
  serial : BitVec 128
  factoryFence : BitVec 64
  minRelease : U32
  bin : BitVec 2
deriving DecidableEq, Repr

/-- The Gazetteer (R78): resident ways by context ID, most recently used first, page-ins under way,
and firmware's account of the defined contexts. -/
structure Gaz where
  ways : Sparse (BitVec 1024)
  lru : List Nat
  paging : List Nat
  bad : List Nat
  defined : List Nat
deriving DecidableEq, Repr

/-- Firmware's account of the running image and of the identity (R341, R351, R357). -/
structure Boot where
  imageHash : BitVec 256
  identityBad : Bool
  ledgerZero : Bool
  /-- Start kind of R357, and whether the reset came out of plane fatal. -/
  kind : Nat
  fatal : Bool
  bist : Nat
deriving DecidableEq, Repr

/-- Everything of the Plane but the queue of commands. -/
structure Plane where
  regs : Regs
  mbx : Sparse Mbx
  mbxMem : Mem
  sessions : Sparse Session
  txns : Sparse Txn
  order : Nat
  /-- The mailbox at which firmware looks first for a request (R275). -/
  mbxNext : Nat
  parts : Sparse Part
  duties : BitVec 12
  coef : Sparse (List U32)
  gaz : Gaz
  hist : Sparse Nat
  vengs : Sparse VEng
  flights : List Flight
  nextId : Nat
  streams : Sparse Stream
  queues : Sparse Hq
  rowDir : Sparse U32
  rdOwner : Option Nat
  cross : Sparse Crossing
  ringSends : List RingSend
  ringRecvs : List RingRecv
  gslots : Sparse (BitVec 256)
  peers : Sparse (BitVec 256)
  colls : List Coll
  sent : List Sent
  heldRuns : List HeldRun
  heldPkts : List HeldPkt
  phys : Sparse Phys
  regions : Sparse Region
  pins : Pins
  memp : Sparse MPort
  colp : Sparse CPort
  bb : BlackBox
  ledger : Ledger
  nvm : Nvm
  fuses : Fuses
  boot : Boot
  /-- Counters of the plane entry of R367, by position 0 to 7. -/
  stalls : Sparse Nat
  /-- Host memory; an unlisted byte reads 0x00 (log 3: DESIGN CHOICE, unsafe). -/
  mem : Mem
  /-- The model's own: the next free value (log 10: DESIGN CHOICE, safe). -/
  freeCtr : Nat
deriving DecidableEq, Repr

/-- The machine: the Plane, and the commands that wait, first in first out. -/
structure State where
  plane : Plane
  pending : List Instr
deriving DecidableEq, Repr

/-! ## Defaults: what a table's unlisted key holds, and the state right after reset -/

def Mbx.init : Mbx := ⟨0, 0, 0, 0, 0, false, false, false, false, 0, none, none⟩

def TaskRegs.init : TaskRegs := ⟨0, [], 0, [], 0⟩

def Task.init : Task := ⟨.free, TaskRegs.init, 0, 0, 0, false, false, []⟩

def Group.init : Group := ⟨.free, 0, false, 0, 0, 0, 0, none⟩

def VEng.init (v : Nat) : VEng :=
  { host := v, tasks := [], rr := [], prog := none, bufCfg := 0, frontB := false, buf := [],
    active := none, shadow := none, plaza := [], groups := [], squares := [], arrivals := [],
    ring := none, late := [], moveTo := none, stalls := [] }

def Settings.init : Settings := ⟨[], [], 0, [], []⟩

def Policy.init : Policy := ⟨false, none, none, 0⟩

/-- A partition that is not defined; partition page registers at reset (R270). -/
def Part.init (p : Nat) : Part :=
  { defined := false, regions := 0, coefFirst := 0, coefCount := 0, win := [0, 0, 0, 0],
    msBase := 0, lastClosed := 0, committed := 0, pncause := 0, pnen := 0,
    pnline := BitVec.ofNat 4 p, settings := Settings.init, policy := Policy.init, epochs := [],
    snaps := [], journal := [], preRound := [], rollbacks := 0, halted := none, rollback := none,
    msSeq := 0, starts := [], replay := none, relLater := [], imageRoc := 0 }

/-- Window 0 of partition 0 after reset: V = 1, LOG2SZ = 52, BASE = 0 (R279). -/
def winWhole : U64 := 0x8340000000000000#64

/-- Partition 0 after reset (R279). -/
def Part.zero : Part :=
  { Part.init 0 with
    defined := true, regions := 0xFF, coefCount := 1024, win := [winWhole, 0, 0, 0],
    snaps := [⟨0, [], Settings.init, [], []⟩] }

/-- A context that holds nothing but its image. -/
def streamStarted (img : BitVec 512) (v s n : Nat) : Stream :=
  { img := img, held := [], ready := false, rows := 0, lim := 0, spilled := [], stopped := false, leaving := false,
    owner := v, slot := s, epoch := n }

def Hq.init : Hq := ⟨0, false, [], 0, 0, 0⟩

def Phys.init (e : Nat) : Phys := ⟨.active, false, false, false, false, [], e⟩

def Region.init : Region :=
  { quarantined := false, slack := 255, slackMin := 255, slackLedger := 255, temp := 0,
    capped := false, calm := 0, level := 15, tokens := 8192, parity := 0, roc := 0, rocCheck := 0, stalls := [],
    slackImage := 255, tempImage := -128, arb := 0, hold := 15, activity := 0 }

def Pins.init : Pins :=
  { quiesceN := true, paceIn := 15, therm := false, testMode := false, edges := [], ignored := [],
    vreq := 104, vreqOld := 104, vack := true, changing := false, wanted := none, timedOut := false,
    watts := 0, tdo := [], reference := 0, refRoc := 0 }

def MPort.init : MPort := ⟨[], [], false, false⟩

def CPort.init : CPort := ⟨0, 512, [], [], false⟩

/-- A group slot at reset: SELF_POS 0xFFF (R214). -/
def gslotInit : BitVec 256 := BitVec.ofNat 256 (0xFFF * 2 ^ 87)

def Regs.init : Regs :=
  { state := .reset, held := .cold, fwslot := 0, release := 0, ctxBase := 0, histBase := 0,
    spillBase := 0, bbmBase := 0, log2n := 10, widx := 0, ncause := 0, nen := 0, nline := 0,
    rspData := 0, rspErr := false }

def Gaz.init : Gaz := ⟨[], [], [], [], []⟩

def BlackBox.init : BlackBox := ⟨[], 0, [], [], 0, [], 0, [], [], [], []⟩

/-- Counter 0 holds the image version and size (R333). -/
def Ledger.init : Ledger := ⟨[(0, 32768 * 2 ^ 32 + 1)], [], none⟩

def Nvm.init : Nvm := ⟨false, [], [], [], [], [], [], [], false⟩

/-- (log 5: DESIGN CHOICE, unsafe) -/
def Fuses.init : Fuses := ⟨0, 0, 0, 0, 0, 0⟩

def Boot.init : Boot := ⟨0, false, false, 0, false, 0⟩

/-- The duties of the plane: black-box mirroring is host-assisted at reset (R294). -/
def dutiesInit : BitVec 12 := 0x100#12

/-- The Plane held in reset: every register at its Reset value (R268, R270, R273), partition 0 as R279
gives it. Host memory, NVM and fuses are what logs 3, 5 and 6 choose, and every register without a
stated reset value holds what log 7 names (log 7: DESIGN CHOICE, unsafe). -/
def Plane.init : Plane :=
  { regs := Regs.init, mbx := [], mbxMem := [], sessions := [], txns := [], order := 0, mbxNext := 0,
    parts := [(0, Part.zero)], duties := dutiesInit, coef := [], gaz := Gaz.init, hist := [],
    vengs := [], flights := [], nextId := 0, streams := [], queues := [], rowDir := [],
    rdOwner := some 0, cross := [], ringSends := [], ringRecvs := [], gslots := [], peers := [],
    colls := [], sent := [], heldRuns := [], heldPkts := [], phys := [], regions := [], pins := Pins.init,
    memp := [], colp := [], bb := BlackBox.init, ledger := Ledger.init, nvm := Nvm.init,
    fuses := Fuses.init, boot := Boot.init, stalls := [], mem := [], freeCtr := 0 }

/-- The machine right after reset: held in reset, PL_STATUS.STATE 0, no command waiting (log 4: DESIGN CHOICE, safe). -/
def State.reset : State := ⟨Plane.init, []⟩

end Sys2Proof.Machine
end

