-- ==== Sys2Proof/Machine/Ops.lean ====
section
/-! DEFINITION. Named operations over the state: tables, memories, bit fields, CRC-32C, records (chapter 14),
partitions, tasks, memory requests. -/

namespace Sys2Proof.Machine

/-! ## Tables with rising keys -/

def spGet {α : Type} : Sparse α → Nat → Option α
  | [], _ => none
  | (k, v) :: t, i => if i = k then some v else spGet t i

def spPut {α : Type} : Sparse α → Nat → α → Sparse α
  | [], i, x => [(i, x)]
  | (k, v) :: t, i, x =>
    if i < k then (i, x) :: (k, v) :: t else if i = k then (i, x) :: t else (k, v) :: spPut t i x

def spDel {α : Type} : Sparse α → Nat → Sparse α
  | [], _ => []
  | (k, v) :: t, i => if i = k then spDel t i else (k, v) :: spDel t i

def spGetD {α : Type} (t : Sparse α) (i : Nat) (d : α) : α := (spGet t i).getD d

/-- Write with the default left unlisted: equal tables are equal data. -/
def spSet {α : Type} [DecidableEq α] (d : α) (t : Sparse α) (i : Nat) (x : α) : Sparse α :=
  if x = d then spDel t i else spPut t i x

def spKeys {α : Type} (t : Sparse α) : List Nat := t.map Prod.fst

/-- The form of every table: keys strictly rising. -/
def spRising {α : Type} : Sparse α → Bool
  | [] => true
  | [_] => true
  | (a, _) :: (b, y) :: t => decide (a < b) && spRising ((b, y) :: t)

/-! ## Byte memories -/

/-- The canonical form of a byte memory whose unlisted bytes read `d`. -/
def Memory.wf (d : Byte) (m : Mem) : Bool := spRising m && m.all (fun c => c.2 != d)

def memGet (d : Byte) (m : Mem) (a : Nat) : Byte := spGetD m a d

def memPut (d : Byte) (m : Mem) (a : Nat) (b : Byte) : Mem := spSet d m a b

def memRead (d : Byte) (m : Mem) (a n : Nat) : List Byte := (List.range n).map (fun i => memGet d m (a + i))

def memWrite (d : Byte) (m : Mem) : Nat → List Byte → Mem
  | _, [] => m
  | a, b :: t => memWrite d (memPut d m a b) (a + 1) t

def memNat (d : Byte) (m : Mem) (a n : Nat) : Nat := leNat (memRead d m a n)

/-! ## Bit fields -/

/-- Bits hi to lo. -/
def bits (w hi lo : Nat) : Nat := w / 2 ^ lo % 2 ^ (hi + 1 - lo)

def bit (w i : Nat) : Bool := w / 2 ^ i % 2 = 1

/-- Replace bits hi to lo. -/
def setBits (w hi lo v : Nat) : Nat :=
  w - bits w hi lo * 2 ^ lo + v % 2 ^ (hi + 1 - lo) * 2 ^ lo

/-- A field of an image held as a bit vector. -/
def fld {n : Nat} (c : BitVec n) (hi lo : Nat) : Nat := bits c.toNat hi lo

def setFld {n : Nat} (c : BitVec n) (hi lo v : Nat) : BitVec n := BitVec.ofNat n (setBits c.toNat hi lo v)

def sfld {n : Nat} (c : BitVec n) (hi lo : Nat) : Int := signed (hi + 1 - lo) (fld c hi lo)

def setSfld {n : Nat} (c : BitVec n) (hi lo : Nat) (v : Int) : BitVec n :=
  setFld c hi lo (unsigned (hi + 1 - lo) v)

/-- Set bits of a mask, counted. -/
def popCount (w : Nat) : Nat := (List.range 64).foldl (fun n i => if bit w i then n + 1 else n) 0

def zeros (n : Nat) : List Byte := List.replicate n 0

/-! ## CRC-32C (R70, R223, R324; parameters of the published CRC: log 13: PRESUMED, unsafe) -/

def crcBit : Nat → Nat → Nat
  | 0, c => c
  | k + 1, c => crcBit k (if c % 2 = 1 then (c / 2) ^^^ 0x82F63B78 else c / 2)

def crcLoop : Nat → List Byte → Nat
  | c, [] => c
  | c, b :: t => crcLoop (crcBit 8 (c ^^^ b.toNat)) t

def crc32c (bs : List Byte) : Nat := crcLoop 0xFFFFFFFF bs ^^^ 0xFFFFFFFF

/-! ## Record codes -/

/-- The number of a code (R332). -/
def Code.num : Code → Nat
  | .laneParity => 0x0101
  | .residueRetry => 0x0102
  | .residueHard => 0x0103
  | .plazaAdderRetry => 0x0104
  | .plazaAdderHard => 0x0105
  | .plazaCe => 0x0106
  | .plazaUe => 0x0107
  | .bufCe => 0x0108
  | .bufUe => 0x0109
  | .seqFault => 0x010A
  | .fetchError => 0x0201
  | .illegalOp => 0x0202
  | .fieldRange => 0x0203
  | .branchRange => 0x0204
  | .loopDepth => 0x0205
  | .memAlign => 0x0206
  | .memWindow => 0x0207
  | .bufRange => 0x0208
  | .bufRole => 0x0209
  | .handleRange => 0x020A
  | .plazaAlign => 0x020B
  | .plazaRange => 0x020C
  | .blockAlign => 0x020D
  | .redLength => 0x020E
  | .granuleMismatch => 0x020F
  | .hqInvalid => 0x0210
  | .ctxPageBad => 0x0211
  | .partViolation => 0x0212
  | .weightMismatch => 0x0213
  | .plazaNotOpen => 0x0214
  | .plazaState => 0x0215
  | .squareDecl => 0x0216
  | .squareFull => 0x0217
  | .stepSkew => 0x0218
  | .streamBusy => 0x0219
  | .streamCfg => 0x021A
  | .rowSlot => 0x021B
  | .ringCfg => 0x021C
  | .crossMask => 0x021D
  | .ringLen => 0x021E
  | .xferFailed => 0x021F
  | .sealOpenGroup => 0x0220
  | .holdRead => 0x0221
  | .floorMismatch => 0x0301
  | .lateContribution => 0x0302
  | .streamIndex => 0x0303
  | .xafFormat => 0x0304
  | .updFallback => 0x0305
  | .updSingular => 0x0306
  | .memError => 0x0307
  | .squareUndeclared => 0x0401
  | .squareStall => 0x0402
  | .ringLag => 0x0403
  | .crossStall => 0x0404
  | .mutualWaitBreak => 0x0405
  | .mutualWait => 0x0406
  | .mutualWaitHard => 0x0407
  | .holdFull => 0x0408
  | .collDesc => 0x0501
  | .collTimeout => 0x0502
  | .floorMiss => 0x0503
  | .preFull => 0x0504
  | .digestFail => 0x0505
  | .totalFail => 0x0506
  | .collOrphan => 0x0507
  | .replicaMismatch => 0x0508
  | .sealStall => 0x0509
  | .restartStall => 0x050A
  | .replayExhausted => 0x050B
  | .rollback => 0x050C
  | .partDown => 0x050D
  | .rgnParity => 0x0601
  | .rocFault => 0x0602
  | .marginLow => 0x0603
  | .plCe => 0x0604
  | .plUe => 0x0605
  | .lockstep => 0x0606
  | .fence => 0x0607
  | .unfence => 0x0608
  | .quarantine => 0x0609
  | .portStall => 0x0701
  | .portProtocol => 0x0702
  | .stuckInput => 0x0703
  | .strapChange => 0x0704
  | .hostEvent => 0x0705
  | .vreqTimeout => 0x0706
  | .nvmUnitRetired => 0x0707
  | .boot => 0x0801
  | .timeNote => 0x0802
  | .sessionDetach => 0x0803
  | .ledgerReset => 0x0804
  | .recordsLost => 0x0805
  | .identityBad => 0x0806
  | .scanPass => 0x0807
  | .scanFail => 0x0808
  | .scanSetBad => 0x0809

/-- The LEVEL of a code (R369 and the fault tables it names). `ctxPageBad` and `xafFormat` carry 3 when the
hub raises them: the caller then gives 3. -/
def Code.level : Code → Nat
  | .laneParity | .residueRetry => 0
  | .residueHard | .plazaAdderRetry | .plazaAdderHard | .plazaCe | .plazaUe | .bufCe | .bufUe | .seqFault | .updFallback | .updSingular | .memError | .squareStall | .floorMiss | .fence | .scanFail => 1
  | .squareUndeclared | .ringLag | .mutualWaitBreak | .mutualWait | .mutualWaitHard | .rgnParity | .rocFault | .marginLow | .quarantine | .portStall | .portProtocol => 2
  | .crossStall | .holdFull | .collTimeout | .preFull | .digestFail | .totalFail | .collOrphan | .replicaMismatch | .sealStall | .restartStall | .replayExhausted | .rollback | .partDown | .plCe | .plUe | .lockstep | .stuckInput | .strapChange | .hostEvent | .vreqTimeout | .nvmUnitRetired | .identityBad | .scanSetBad => 3
  | .fetchError | .illegalOp | .fieldRange | .branchRange | .loopDepth | .memAlign | .memWindow | .bufRange | .bufRole | .handleRange | .plazaAlign | .plazaRange | .blockAlign | .redLength | .granuleMismatch | .hqInvalid | .ctxPageBad | .partViolation | .weightMismatch | .plazaNotOpen | .plazaState | .squareDecl | .squareFull | .stepSkew | .streamBusy | .streamCfg | .rowSlot | .ringCfg | .crossMask | .ringLen | .xferFailed | .sealOpenGroup | .holdRead | .floorMismatch | .lateContribution | .streamIndex | .xafFormat | .collDesc => 4
  | .unfence | .boot | .timeNote | .sessionDetach | .ledgerReset | .recordsLost | .scanPass => 6


/-! ## Places in the Plane -/

def getV (p : Plane) (v : Nat) : VEng := spGetD p.vengs v (VEng.init v)
def setV (p : Plane) (v : Nat) (e : VEng) : Plane := { p with vengs := spPut p.vengs v e }
def modV (p : Plane) (v : Nat) (f : VEng → VEng) : Plane := setV p v (f (getV p v))

def getT (p : Plane) (v s : Nat) : Task := spGetD (getV p v).tasks s Task.init
def setT (p : Plane) (v s : Nat) (t : Task) : Plane :=
  modV p v (fun e => { e with tasks := spPut e.tasks s t })
def modT (p : Plane) (v s : Nat) (f : Task → Task) : Plane := setT p v s (f (getT p v s))

def getP (p : Plane) (i : Nat) : Part := spGetD p.parts i (Part.init i)
def setP (p : Plane) (i : Nat) (x : Part) : Plane := { p with parts := spPut p.parts i x }
def modP (p : Plane) (i : Nat) (f : Part → Part) : Plane := setP p i (f (getP p i))

def getM (p : Plane) (m : Nat) : Mbx := spGetD p.mbx m Mbx.init
def setM (p : Plane) (m : Nat) (x : Mbx) : Plane := { p with mbx := spPut p.mbx m x }
def modM (p : Plane) (m : Nat) (f : Mbx → Mbx) : Plane := setM p m (f (getM p m))

def getPhys (p : Plane) (e : Nat) : Phys := spGetD p.phys e (Phys.init e)
def setPhys (p : Plane) (e : Nat) (x : Phys) : Plane := { p with phys := spPut p.phys e x }
def modPhys (p : Plane) (e : Nat) (f : Phys → Phys) : Plane := setPhys p e (f (getPhys p e))

def getRg (p : Plane) (r : Nat) : Region := spGetD p.regions r Region.init
def setRg (p : Plane) (r : Nat) (x : Region) : Plane := { p with regions := spPut p.regions r x }
def modRg (p : Plane) (r : Nat) (f : Region → Region) : Plane := setRg p r (f (getRg p r))

def getMP (p : Plane) (n : Nat) : MPort := spGetD p.memp n MPort.init
def setMP (p : Plane) (n : Nat) (x : MPort) : Plane := { p with memp := spPut p.memp n x }
def getCP (p : Plane) (n : Nat) : CPort := spGetD p.colp n CPort.init
def setCP (p : Plane) (n : Nat) (x : CPort) : Plane := { p with colp := spPut p.colp n x }

def getG (e : VEng) (g : Nat) : Group := spGetD e.groups g Group.init
def setG (e : VEng) (g : Nat) (x : Group) : VEng := { e with groups := spSet Group.init e.groups g x }
def getAcc (e : VEng) (row col : Nat) : Acc := spGetD e.plaza (row * 192 + col) accZero
def setAcc (e : VEng) (row col : Nat) (a : Acc) : VEng :=
  { e with plaza := spSet accZero e.plaza (row * 192 + col) a }

def getQ (p : Plane) (q : Nat) : Hq := spGetD p.queues q Hq.init
def setQ (p : Plane) (q : Nat) (x : Hq) : Plane := { p with queues := spPut p.queues q x }

def getSlot (p : Plane) (g : Nat) : BitVec 256 := spGetD p.gslots g gslotInit
def setSlot (p : Plane) (g : Nat) (x : BitVec 256) : Plane := { p with gslots := spPut p.gslots g x }
def getPeer (p : Plane) (g i : Nat) : BitVec 256 := spGetD p.peers (g * 4096 + i) 0
def setPeer (p : Plane) (g i : Nat) (x : BitVec 256) : Plane :=
  { p with peers := spSet 0 p.peers (g * 4096 + i) x }

def memAt (p : Plane) (a n : Nat) : List Byte := memRead 0 p.mem a n
def memNatAt (p : Plane) (a n : Nat) : Nat := memNat 0 p.mem a n
def memStore (p : Plane) (a : Nat) (bs : List Byte) : Plane := { p with mem := memWrite 0 p.mem a bs }

/-- Bytes that a failed write leaves: the manual does not give them (log 11: DESIGN CHOICE, unsafe). -/
def freeBytes (p : Plane) (a n : Nat) : Plane :=
  let bs := (List.range n).map (fun k => (Config.freeWord (p.freeCtr + k)).setWidth 8)
  { memStore p a bs with freeCtr := p.freeCtr + n }

/-- The numbers 0 to n - 1 that satisfy f. -/
def upTo (n : Nat) (f : Nat → Bool) : List Nat := (List.range n).filter f

/-- A fold over the numbers 0 to n - 1. -/
def forN {α : Type} (n : Nat) (x : α) (f : α → Nat → α) : α := (List.range n).foldl f x

/-! ## Partitions and fences -/

/-- The partition that holds region r, if any. -/
def partOfRegion (p : Plane) (r : Nat) : Option Nat :=
  (upTo 8 (fun i => (getP p i).defined && bit (getP p i).regions.toNat r)).head?

/-- The partition of virtual engine v: it holds engines 8r to 8r + 7 of its regions (R279). -/
def partOf (p : Plane) (v : Nat) : Option Nat := partOfRegion p (v / 8)

def partVengs (p : Plane) (i : Nat) : List Nat := upTo 64 (fun v => partOf p v == some i)

/-- The field mask in force: the newer configuration copy (R339, R355). -/
def cfgNow (p : Plane) : CfgCopy :=
  p.nvm.cfg.foldl (fun a c => if a.gen < c.gen then c else a) ⟨0, 0, 0⟩

def isFactory (p : Plane) (e : Nat) : Bool := bit p.fuses.factoryFence.toNat e

def isFenced (p : Plane) (e : Nat) : Bool :=
  isFactory p e || (getPhys p e).fieldFence || (getRg p (e / 8)).quarantined

/-- PL_FENCED (R268, R355). -/
def fencedMask (p : Plane) : U64 :=
  BitVec.ofNat 64 (forN 64 0 (fun n e => if isFenced p e then n + 2 ^ e else n))

def hostedOn (p : Plane) (e : Nat) : List Nat := upTo 64 (fun v => (getV p v).host == e)

/-! ## Records -/

/-- ROC of a source: its region's count; the reference region for the hub and the control core. -/
def rocOf (p : Plane) (source : Nat) : Nat :=
  if source < 0x40 then (getRg p (source / 8)).roc
  else if source < 0x48 then (getRg p (source - 0x40)).roc
  else p.pins.refRoc

def srcHub : Nat := 0x48
def srcCore : Nat := 0x49

def coalesce (l : List Coal) (c : Coal) : List Coal :=
  match l with
  | [] => [c]
  | x :: t =>
    if x.source = c.source ∧ x.code = c.code then
      { x with count := min (x.count + 1) 0xFFFFFFFF, acks := x.acks ++ c.acks } :: t
    else x :: coalesce t c

/-- A detail in parts of 36 B, each with whether another follows: three at most (R331). -/
def recParts : Nat → List Byte → List (Bool × List Byte)
  | 0, _ => []
  | fuel + 1, d => (decide (36 < d.length), d.take 36) :: (if d.length ≤ 36 then [] else recParts fuel (d.drop 36))

/-- The record's parts take consecutive numbers; what acknowledges it does so with the last. -/
def pushParts (r : Rec) (acks : List Ack) : List (Bool × List Byte) → BlackBox → BlackBox
  | [], b => b
  | (cont, d) :: t, b =>
    pushParts { r with code := 0xFFFF } acks t { b with
      queue := b.queue ++ [({ r with
        seq := b.nextSeq
        cont := cont
        detail := d }, if cont then [] else acks)]
      nextSeq := b.nextSeq + 1 }

/-- Hand one record, with its continuations (R331), to the black-box writer (R325, R327). -/
def pushRec (p : Plane) (level source code : Nat) (part : Option Nat) (notKept : Bool) (detail : List Byte)
    (acks : List Ack) : Plane :=
  let b := p.bb
  let l := recParts 3 detail
  let keepAll := code = Code.num .lockstep ∨ code = Code.num .plUe ∨ code = Code.num .boot
  if b.queue.length + l.length ≤ 4096 ∨ keepAll then
    let r : Rec := ⟨0, rocOf p source, level, source, code, part, false, false, notKept, false, []⟩
    { p with bb := pushParts r acks l b }
  else if b.coal.any (fun c => c.source = source ∧ c.code = code)
      ∨ (b.coal.filter (fun c => c.source = source)).length < 16 then
    { p with bb := { b with coal := coalesce b.coal ⟨source, code, level, part, 1, acks⟩ } }
  else { p with bb := { b with lost := b.lost + 1, lostAcks := b.lostAcks ++ acks } }

def raiseLvl (p : Plane) (c : Code) (level source : Nat) (part : Option Nat) (detail : List Byte)
    (acks : List Ack) : Plane := pushRec p level source c.num part false detail acks

def raise (p : Plane) (c : Code) (source : Nat) (part : Option Nat) (detail : List Byte)
    (acks : List Ack) : Plane := raiseLvl p c c.level source part detail acks

/-- Ledger counter i, saturating at 2^64 - 1 (R333). -/
def ledgerAdd (p : Plane) (i n : Nat) : Plane :=
  { p with ledger := { p.ledger with
      cnt := spSet 0 p.ledger.cnt i (min (spGetD p.ledger.cnt i 0 + n) (2 ^ 64 - 1)) } }

/-- Detail of the families of R332. -/
def dArray (veng slot col row pass pc : Nat) (desc : List Byte) : List Byte :=
  toLE 1 veng ++ toLE 1 slot ++ toLE 2 col ++ toLE 2 row ++ toLE 2 pass ++ toLE 4 pc ++ desc

def dInstr (veng slot pc : Nat) (w : BitVec 128) (obj : List Byte) : List Byte :=
  toLE 1 veng ++ toLE 1 slot ++ toLE 2 0 ++ toLE 4 pc ++ toLE 16 w.toNat ++ (obj ++ zeros 12).take 12
    ++ obj.drop 12

def dExec (veng slot gid idx : Nat) (f : Int) (rank last : Nat) : List Byte :=
  toLE 1 veng ++ toLE 1 slot ++ toLE 2 0 ++ toLE 4 gid ++ toLE 8 idx ++ toLE 2 (unsigned 16 f)
    ++ toLE 4 rank ++ toLE 8 last

def dColl (epoch cid ggid rank off gid cause : Nat) : List Byte :=
  toLE 6 epoch ++ toLE 2 cid ++ toLE 4 ggid ++ toLE 4 rank ++ toLE 8 off ++ toLE 4 gid ++ toLE 8 cause

/-- The group descriptor that a group fault carries (R214). -/
def gImage (p : Plane) (g : Nat) : List Byte := toLE 32 (getSlot p g).toNat

def dHw (p : Plane) (region engine struct idx : Nat) : List Byte :=
  toLE 1 region ++ toLE 1 engine ++ toLE 1 struct ++ toLE 4 idx
    ++ (List.range 8).flatMap (fun r => toLE 1 (getRg p r).slack)
    ++ (List.range 8).flatMap (fun r => toLE 1 (unsigned 8 (getRg p r).temp)) ++ toLE 1 p.pins.vreq

def dPort (port edges : Nat) (tags : List Nat) (nvm : Nat) : List Byte :=
  toLE 1 port ++ toLE 1 edges ++ ((tags.take 16).flatMap (toLE 1) ++ zeros 16).take 16 ++ toLE 4 nvm

/-- Image of a group descriptor (R91); `arr` and `close` are the Square's. (log 58: DEDUCED, unsafe) -/
def groupImage (g : Nat) (d : Group) (arr close : Nat) : Nat :=
  let st := match d.st with
    | .free => 0
    | .opened => 1
    | .square _ => 2
  g + d.owner * 2 ^ 14 + st * 2 ^ 18 + (if d.spl then 2 ^ 21 else 0) + floorField d.f * 2 ^ 22
    + close % 2 ^ 16 * 2 ^ 32 + arr % 2 ^ 16 * 2 ^ 48 + min d.gnan 0xFFFFFFFF * 2 ^ 64
    + min d.ginf 0xFFFFFFFF * 2 ^ 96

def squareExtent (s : Square) : Nat := s.m * 192

/-- Image of a Square record (R104). -/
def squareImage (sq : Nat) (s : Square) : List Byte :=
  let st := match s.st with
    | .opened => 1
    | .closed => 2
    | .released => 3
  toLE 32 (sq + st * 2 ^ 8 + s.owner * 2 ^ 56 + s.m * 2 ^ 60 + s.baseGrp * 2 ^ 71 + floorField s.f * 2 ^ 78
    + s.closeCnt * 2 ^ 88 + s.gid * 2 ^ 104 + s.offset * 2 ^ 128 + squareExtent s * 2 ^ 166
    + s.tally * 2 ^ 184 + s.epoch % 2 ^ 16 * 2 ^ 224 + min s.late 0xFFFF * 2 ^ 240)

/-- Descriptor image of group g of an engine. -/
def groupBytes (e : VEng) (g : Nat) : List Byte :=
  let d := getG e g
  match d.st with
  | .square sq =>
    match spGet e.squares sq with
    | some s => toLE 16 (groupImage g d (s.tally / squareExtent s) s.closeCnt)
    | none => toLE 16 (groupImage g d 0 0)
  | _ => toLE 16 (groupImage g d 0 0)

/-- Stall counters (R365, R367). -/
def stallV (p : Plane) (v i n : Nat) : Plane :=
  modV p v (fun e => { e with stalls := spSet 0 e.stalls i (sat32 (spGetD e.stalls i 0) n) })
def stallR (p : Plane) (r i n : Nat) : Plane :=
  modRg p r (fun x => { x with stalls := spSet 0 x.stalls i (sat32 (spGetD x.stalls i 0) n) })
def stallP (p : Plane) (i n : Nat) : Plane :=
  { p with stalls := spSet 0 p.stalls i (sat32 (spGetD p.stalls i 0) n) }

/-! ## Epoch numbers (R234) -/

/-- Slots of a partition that are not FREE, as (engine, slot, task). -/
def liveTasks (p : Plane) (i : Nat) : List (Nat × Nat × Task) :=
  (partVengs p i).flatMap (fun v =>
    ((getV p v).tasks.filter (fun t => t.2.st ≠ TaskSt.free)).map (fun t => (v, t.1, t.2)))

/-- The running epoch. -/
def running (p : Plane) (i : Nat) : Nat :=
  match liveTasks p i with
  | [] => (getP p i).lastClosed + 1
  | l => l.foldl (fun n t => max n t.2.2.epoch) 0

/-- The counter of epochs has 48 bits (R234). What follows its highest number no rule says
(log 144: DESIGN CHOICE, unsafe). -/
def epochNo (n : Nat) : Nat := n % 2 ^ 48

def epInit (n : Nat) : EpRec :=
  { n := n, issued := false, implicitClose := false, arrived := 0, phase := .running, status := 0,
    retryCnt := 0, fallbackCnt := 0, sidxCnt := 0, lateCnt := 0, flmmCnt := 0, detachCnt := 0,
    mwbCnt := 0, sealedCtx := [], wrote := [], updCtx := [], colls := [], miss := [], missFull := false,
    fellBack := [], hist := [], keptCtx := [], keptHist := [], keptSlots := [], exchSent := [], ordinal := 0, held := [], heldWait := [],
    snapV := [], snapR := [], snapP := [], relRoc := 0, seq := 0,
    own := none, hostHold := false, summarySent := false, pieces := [], got := [],
    replicaDone := false, verdict := none, verdictMiss := [], merged := [], taken := false, downSent := false, stallRec := false,
    holdFullRec := false }

def epGet (x : Part) (n : Nat) : EpRec := (x.epochs.find? (fun e => e.n == n)).getD (epInit n)

def epPut : List EpRec → EpRec → List EpRec
  | [], e => [e]
  | x :: t, e => if e.n < x.n then e :: x :: t else if e.n = x.n then e :: t else x :: epPut t e

def modEp (p : Plane) (i n : Nat) (f : EpRec → EpRec) : Plane :=
  modP p i (fun x => { x with epochs := epPut x.epochs (f (epGet x n)) })

/-- Duty d is in hardware mode (R294): plane duties 6 to 9, the others the partition's. -/
def dutyHw (p : Plane) (i d : Nat) : Bool :=
  if 6 ≤ d ∧ d ≤ 9 then !bit p.duties.toNat d else !bit (getP p i).settings.duties.toNat d

/-- A session of a partition's task, and causes (R295). Acks set the cause once the record is in NVM. -/
def setPn (p : Plane) (i b : Nat) : Plane :=
  modP p i (fun x => { x with pncause := x.pncause ||| BitVec.ofNat 7 (2 ^ b) })
def setPl (p : Plane) (b : Nat) : Plane :=
  { p with regs := { p.regs with ncause := p.regs.ncause ||| BitVec.ofNat 5 (2 ^ b) } }

/-! ## Memory requests (R297 to R300) -/

/-- The units of 128 B that a span touches, as (address, length). -/
def reqSplit : Nat → Nat → Nat → List (Nat × Nat)
  | 0, _, _ => []
  | fuel + 1, a, n =>
    if n = 0 then []
    else
      let k := min n (128 - a % 128)
      (a, k) :: reqSplit fuel (a + k) (n - k)

def reqList (a n : Nat) : List (Nat × Nat) := reqSplit (n / 128 + 2) a n

/-- A window word covers a byte range (R270). -/
def winCovers (w : U64) (a n : Nat) : Bool :=
  let lg := fld w 57 52
  let base := fld w 51 12 * 4096
  bit w.toNat 63 && decide (base ≤ a) && decide (a + n ≤ base + 2 ^ lg)

/-- (log 38: DEDUCED, unsafe) -/
def inWindow (p : Plane) (i a n : Nat) : Bool := (getP p i).win.any (fun w => winCovers w a n)

/-- The lowest tag not outstanding on the port (log 19: DESIGN CHOICE, unsafe). -/
def freeTag (m : MPort) : Option Nat := (upTo 64 (fun t => !m.reqs.any (fun r => r.tag == t))).head?

/-- Waiting requests go out in order while the wrapper holds fewer than 16, a copy of each until its final response
(R301; log 147: DEDUCED, unsafe); a fence only when no write is outstanding (R299). -/
def promote : Nat → MPort → MPort
  | 0, m => m
  | fuel + 1, m =>
    match m.waiting, freeTag m with
    | r :: t, some k =>
      if m.hrst || decide (16 ≤ m.reqs.length) || (r.op == .fence && m.reqs.any (fun x => x.op == .write)) then m
      else promote fuel { m with
        stallRec := false
        waiting := t
        reqs := m.reqs ++ [{ r with tag := k }] }
    | _, _ => m

def pushReq (p : Plane) (port : Nat) (op : MemOp) (a n : Nat) (owner : ReqFor) (part : Option Nat) : Plane :=
  let m := getMP p port
  let r : PReq := ⟨0, op, a, n, owner, 0, part⟩
  setMP p port (promote 65 { m with waiting := m.waiting ++ [r] })

/-- The port of an agent that is no engine: the next in turn of the lowest region in service (R297; log 19: DESIGN
CHOICE, unsafe). -/
def agentPort (p : Plane) : Nat :=
  match (upTo 8 (fun r => !(getRg p r).quarantined)).head? with
  | some r => 8 * r + (getRg p r).arb % 8
  | none => 0

/-- A request of such an agent; the arbiter's turn goes on. -/
def agentReq (p : Plane) (op : MemOp) (a n : Nat) (owner : ReqFor) (part : Option Nat) : Plane :=
  let k := agentPort p
  modRg (pushReq p k op a n owner part) (k / 8) (fun x => { x with arb := (x.arb + 1) % 8 })

/-- A write of such an agent: the bytes land at once (log 11: DESIGN CHOICE, unsafe). -/
def agentWrite (p : Plane) (part : Option Nat) (a : Nat) (bs : List Byte) : Plane :=
  (reqList a bs.length).foldl (fun p r => agentReq p .write r.1 r.2 .agent part) (memStore p a bs)

def homePort (p : Plane) (v : Nat) : Nat := (getV p v).host

def modFlight (p : Plane) (id : Nat) (f : Flight → Flight) : Plane :=
  { p with flights := p.flights.map (fun x => if x.id = id then f x else x) }

/-- A request of a flight failed: the flight is failed; `bad` lists what a read did not get. -/
def failFlight (p : Plane) (id : Nat) (bad : List (Nat × Nat)) : Plane :=
  modFlight p id (fun f => { f with
    failed := true
    bad := f.bad ++ bad })

/-- MEM_ERROR (R194, R300): GLOBAL_ID, logical index and source rank are not the request's, so they are 0 (R332). -/
def memError (p : Plane) (v s : Nat) (part : Option Nat) (addr tag port : Nat) : Plane :=
  raise p .memError (homePort p v) part
    (dExec v s 0 0 0 0 (addr % 2 ^ 52 + tag * 2 ^ 52 + port * 2 ^ 58)) []

/-- One request of a read that belongs to a flight; outside the windows it fails (R194). -/
def readReq (i v s id : Nat) (p : Plane) (r : Nat × Nat) : Plane :=
  if inWindow p i r.1 r.2 then pushReq p (homePort p v) .read r.1 r.2 (.flight id) (some i)
  else memError (failFlight p id [r]) v s (some i) r.1 0 (homePort p v)

/-- The requests of a read of `n` bytes at `a`. -/
def readReqs (p : Plane) (i v s id a n : Nat) : Plane := (reqList a n).foldl (readReq i v s id) p

/-- One request of a write: the bytes land at once; the response may still fail (log 11: DESIGN CHOICE, unsafe). -/
def writeReq (i v s id a : Nat) (bs : List Byte) (p : Plane) (r : Nat × Nat) : Plane :=
  if inWindow p i r.1 r.2 then
    let p := memStore p r.1 ((bs.drop (r.1 - a)).take r.2)
    pushReq p (homePort p v) .write r.1 r.2 (.flight id) (some i)
  else memError (failFlight p id []) v s (some i) r.1 0 (homePort p v)

def writeReqs (p : Plane) (i v s id a : Nat) (bs : List Byte) : Plane :=
  (reqList a bs.length).foldl (writeReq i v s id a bs) p

/-- A request that the host answers with ERROR, or with a RETRY too many (R300). -/
def Answer.fails (x : Answer) : Bool := x.error || decide (3 < x.retries.val)

/-- The requests of a span that fail. -/
def failedReqs (l : Fails) (a n : Nat) : List (Nat × Nat) :=
  (reqList a n).filter (fun r => l.any (fun x => x.addr.toNat == r.1 && Answer.fails x))

/-- The RETRYs of a command's requests, counted for their port and its region (R300, R333, R367). -/
def countRetries (port : Nat) (l : Fails) (p : Plane) : Plane :=
  l.foldl (fun p x => stallR (ledgerAdd p (1304 + port) x.retries.val) (port / 8) 2 x.retries.val) p

/-- No request of a flight is outstanding. -/
def reqsDone (p : Plane) (id : Nat) : Bool :=
  p.memp.all (fun m => (m.2.reqs ++ m.2.waiting).all (fun r => decide (r.owner ≠ ReqFor.flight id)))

/-! ## The shape every meaning has -/

/-- What the Plane does of itself ends when it is plane fatal (R263). -/
def onReady (f : Plane → Plane) (p : Plane) : Plane := if p.regs.state = .ready then f p else p

/-- A command's effect on everything but the queue (the row's cut). -/
def onPlane (s : State) (f : Plane → Plane) : Host.Outcome State Fault Refusal :=
  .next { s with plane := f s.plane }

end Sys2Proof.Machine
end

