-- ==== Sys2Proof/Machine/Encode.lean ====
section
/-! DEFINITION. The 128-bit word of each engine instruction (R166 to R184), and the instruction that a word of a
program image spells. Reserved bits are written 0 and not read (R6). -/

namespace Sys2Proof.Machine

/-- Common header and class fields. -/
def wordOf (op : Nat) (i : Issue) (body : Nat) : BitVec 128 :=
  BitVec.ofNat 128 (op * 2 ^ 120 + i.gen.toNat * 2 ^ 119 + i.gneg.toNat * 2 ^ 118
    + i.gp.toNat * 2 ^ 115 + body)

/-- A field's value at its lowest bit. -/
def at' {n : Nat} (x : BitVec n) (lo : Nat) : Nat := x.toNat * 2 ^ lo

def wMma (i : Issue) (f : MmaF) : BitVec 128 :=
  wordOf 0x01 i (at' f.actx 91 + at' f.bctx 67 + at' f.bgrp 60 + at' f.m 49 + f.add.toNat * 2 ^ 48
    + at' f.fsrc 46 + at' f.fimm 36 + at' f.g0r 31 + at' f.gcnt 26 + at' f.areg 21 + at' f.abuf 5
    + at' f.ocr 0)

def wLdw (i : Issue) (f : LdwF) : BitVec 128 :=
  wordOf 0x02 i (at' f.bctx 91 + at' f.g0r 86 + at' f.gcnt 81 + at' f.ncol 73 + f.pair.toNat * 2 ^ 72
    + at' f.wreg 67 + at' f.wbuf 51)

def wConv (i : Issue) (f : ConvF) : BitVec 128 :=
  wordOf 0x03 i (at' f.octx 91 + at' f.bgrp 84 + at' f.m 73 + at' f.ncol 65 + f.rel.toNat * 2 ^ 64
    + at' f.sidx 56 + at' f.bmode 54 + at' f.bir 49 + at' f.act 44 + at' f.rmo 42
    + f.dest.toNat * 2 ^ 41 + at' f.dreg 36 + at' f.dbuf 20 + at' f.lreg 15 + at' f.tag 11)

def wEwise (i : Issue) (eop : Nat) (f : EwiseF) : BitVec 128 :=
  wordOf 0x04 i (eop * 2 ^ 112 + at' f.bbc 110 + at' f.car 105 + at' f.cbr 100 + at' f.cor 95
    + at' f.areg 90 + at' f.aoff 74 + at' f.breg 69 + at' f.boff 53 + at' f.lreg 48 + at' f.nreg 43
    + at' f.sidx 35 + at' f.bmode 33 + at' f.bir 28 + at' f.act 23 + at' f.rmo 21
    + f.dest.toNat * 2 ^ 20 + at' f.dreg 15 + at' f.tag 11)

def wRed (i : Issue) (rop : Nat) (f : RedF) : BitVec 128 :=
  wordOf 0x05 i (rop * 2 ^ 113 + at' f.form 111 + at' f.car 106 + at' f.cor 101 + at' f.areg 96
    + at' f.aoff 80 + at' f.nreg 75 + at' f.mreg 70 + at' f.kreg 65 + at' f.bgrp 58
    + f.add.toNat * 2 ^ 57 + at' f.fsrc 55 + at' f.fimm 45 + at' f.rmo 43 + f.dest.toNat * 2 ^ 42
    + at' f.dreg 37 + at' f.ireg 32 + at' f.lreg 27 + at' f.tag 23)

def wUpd (i : Issue) (umode : Nat) (f : UpdF) : BitVec 128 :=
  wordOf 0x06 i (at' f.uctx 91 + at' f.crow 81 + at' f.treg 76 + umode * 2 ^ 74 + at' f.uexp 72
    + f.sgnp.toNat * 2 ^ 71 + f.rawg.toNat * 2 ^ 70 + at' f.greg 65 + at' f.goff 49 + at' f.lreg 44
    + at' f.nreg 39 + at' f.tag 35)

def wXfer (i : Issue) (xop : Nat) (f : XferF) : BitVec 128 :=
  wordOf 0x07 i (xop * 2 ^ 111 + at' f.tag 107 + at' f.mreg 102 + at' f.moff 78 + at' f.breg 73
    + at' f.boff 57 + at' f.len 35 + at' f.bgrp 28 + at' f.m 17 + f.add.toNat * 2 ^ 16
    + f.rel.toNat * 2 ^ 15 + at' f.fsrc 13 + at' f.creg 8 + at' f.xreg 3)

def wRing (i : Issue) (rop : Nat) (f : RingF) : BitVec 128 :=
  wordOf 0x08 i (rop * 2 ^ 112 + at' f.tag 108 + at' f.mreg 103 + at' f.moff 79 + at' f.breg 74
    + at' f.boff 58 + at' f.len 36 + at' f.lag 33 + at' f.xreg 28 + at' f.dreg 23)

def wHq (i : Issue) (hop : Nat) (f : HqF) : BitVec 128 :=
  wordOf 0x09 i (hop * 2 ^ 114 + f.tryIt.toNat * 2 ^ 113 + at' f.qid 105 + at' f.sreg 100
    + at' f.pd 97)

def wCross (i : Issue) (cop : Nat) (cid : BitVec 6) (mreg : BitVec 5) : BitVec 128 :=
  wordOf 0x0A i (cop * 2 ^ 114 + at' cid 108 + at' mreg 103)

def wSwap (i : Issue) : BitVec 128 := wordOf 0x0B i 0

def wWait (i : Issue) (tmask : BitVec 16) : BitVec 128 := wordOf 0x0C i (at' tmask 99)

def wCtx (i : Issue) (snap : Bool) (f : CtxF) : BitVec 128 :=
  wordOf 0x0D i (at' f.creg 110 + snap.toNat * 2 ^ 109 + f.rst.toNat * 2 ^ 108 + at' f.mreg 103
    + at' f.moff 79 + at' f.tag 75)

def wSeal (i : Issue) (sop : Nat) (dreg : BitVec 5) : BitVec 128 :=
  wordOf 0x0E i (sop * 2 ^ 113 + at' dreg 108)

def wBr (i : Issue) (f : BrF) : BitVec 128 :=
  wordOf 0x10 i (f.ind.toNat * 2 ^ 114 + at' f.sr 109 + at' f.off 77)

def wLoop (i : Issue) (f : LoopF) : BitVec 128 := wordOf 0x11 i (at' f.creg 110 + at' f.len 94)

def wAlu (i : Issue) (aop : Nat) (f : AluF) : BitVec 128 :=
  wordOf 0x12 i (aop * 2 ^ 110 + at' f.sd 105 + at' f.sa 100 + at' f.sb 95 + f.i.toNat * 2 ^ 94
    + at' f.imm 46)

def wSetp (i : Issue) (f : SetpF) : BitVec 128 :=
  wordOf 0x13 i (at' f.cmp 112 + at' f.pd 109 + at' f.comb 107 + at' f.sa 102 + at' f.sb 97
    + f.i.toNat * 2 ^ 96 + at' f.imm 48)

def wYield (i : Issue) : BitVec 128 := wordOf 0x1E i 0
def wHalt (i : Issue) : BitVec 128 := wordOf 0x1F i 0

/-! ## Reading a word -/

/-- The field of `n` bits that begins at bit `lo`. -/
def bv (n w lo : Nat) : BitVec n := BitVec.ofNat n (w / 2 ^ lo)

def rMma (w : Nat) : MmaF :=
  { actx := bv 24 w 91, bctx := bv 24 w 67, bgrp := bv 7 w 60, m := bv 11 w 49, add := bit w 48, fsrc := bv 2 w 46,
    fimm := bv 10 w 36, g0r := bv 5 w 31, gcnt := bv 5 w 26, areg := bv 5 w 21, abuf := bv 16 w 5, ocr := bv 5 w 0 }

def rLdw (w : Nat) : LdwF :=
  { bctx := bv 24 w 91, g0r := bv 5 w 86, gcnt := bv 5 w 81, ncol := bv 8 w 73, pair := bit w 72, wreg := bv 5 w 67,
    wbuf := bv 16 w 51 }

def rConv (w : Nat) : ConvF :=
  { octx := bv 24 w 91, bgrp := bv 7 w 84, m := bv 11 w 73, ncol := bv 8 w 65, rel := bit w 64, sidx := bv 8 w 56,
    bmode := bv 2 w 54, bir := bv 5 w 49, act := bv 5 w 44, rmo := bv 2 w 42, dest := bit w 41, dreg := bv 5 w 36,
    dbuf := bv 16 w 20, lreg := bv 5 w 15, tag := bv 4 w 11 }

def rEwise (w : Nat) : EwiseF :=
  { bbc := bv 2 w 110, car := bv 5 w 105, cbr := bv 5 w 100, cor := bv 5 w 95, areg := bv 5 w 90, aoff := bv 16 w 74,
    breg := bv 5 w 69, boff := bv 16 w 53, lreg := bv 5 w 48, nreg := bv 5 w 43, sidx := bv 8 w 35, bmode := bv 2 w 33,
    bir := bv 5 w 28, act := bv 5 w 23, rmo := bv 2 w 21, dest := bit w 20, dreg := bv 5 w 15, tag := bv 4 w 11 }

def rRed (w : Nat) : RedF :=
  { form := bv 2 w 111, car := bv 5 w 106, cor := bv 5 w 101, areg := bv 5 w 96, aoff := bv 16 w 80, nreg := bv 5 w 75,
    mreg := bv 5 w 70, kreg := bv 5 w 65, bgrp := bv 7 w 58, add := bit w 57, fsrc := bv 2 w 55, fimm := bv 10 w 45,
    rmo := bv 2 w 43, dest := bit w 42, dreg := bv 5 w 37, ireg := bv 5 w 32, lreg := bv 5 w 27, tag := bv 4 w 23 }

def rUpd (w : Nat) : UpdF :=
  { uctx := bv 24 w 91, crow := bv 10 w 81, treg := bv 5 w 76, uexp := bv 2 w 72, sgnp := bit w 71, rawg := bit w 70,
    greg := bv 5 w 65, goff := bv 16 w 49, lreg := bv 5 w 44, nreg := bv 5 w 39, tag := bv 4 w 35 }

def rXfer (w : Nat) : XferF :=
  { tag := bv 4 w 107, mreg := bv 5 w 102, moff := bv 24 w 78, breg := bv 5 w 73, boff := bv 16 w 57, len := bv 22 w 35,
    bgrp := bv 7 w 28, m := bv 11 w 17, add := bit w 16, rel := bit w 15, fsrc := bv 2 w 13, creg := bv 5 w 8,
    xreg := bv 5 w 3 }

def rRing (w : Nat) : RingF :=
  { tag := bv 4 w 108, mreg := bv 5 w 103, moff := bv 24 w 79, breg := bv 5 w 74, boff := bv 16 w 58, len := bv 22 w 36,
    lag := bv 3 w 33, xreg := bv 5 w 28, dreg := bv 5 w 23 }

def rHq (w : Nat) : HqF := { tryIt := bit w 113, qid := bv 8 w 105, sreg := bv 5 w 100, pd := bv 3 w 97 }

def rCtx (w : Nat) : CtxF :=
  { creg := bv 5 w 110, rst := bit w 108, mreg := bv 5 w 103, moff := bv 24 w 79, tag := bv 4 w 75 }

def rAlu (w : Nat) : AluF := { sd := bv 5 w 105, sa := bv 5 w 100, sb := bv 5 w 95, i := bit w 94, imm := bv 48 w 46 }

def rSetp (w : Nat) : SetpF :=
  { cmp := bv 3 w 112, pd := bv 3 w 109, comb := bv 2 w 107, sa := bv 5 w 102, sb := bv 5 w 97, i := bit w 96,
    imm := bv 48 w 48 }

/-- The issue of a slot whose instruction word is `w`: the guard of the common header (R166), nothing wrong. -/
def rIssue (veng : Fin 64) (slot : Fin 16) (w : Nat) : Issue :=
  ⟨veng, slot, bit w 119, bit w 118, bv 3 w 115, .ok, [], []⟩

/-- The guard of the common header is that of the issue. -/
def sameGuard (i : Issue) (w : Nat) : Bool :=
  i.gen == bit w 119 && i.gneg == bit w 118 && i.gp == bv 3 w 115

def decEwise (i : Issue) (w : Nat) : Option Instr :=
  match bits w 114 112 with
  | 0 => some (.ewiseMov i (rEwise w))
  | 1 => some (.ewiseAdd i (rEwise w))
  | 2 => some (.ewiseSub i (rEwise w))
  | 3 => some (.ewiseMul i (rEwise w))
  | _ => none

def decRed (i : Issue) (w : Nat) : Option Instr :=
  match bits w 114 113 with
  | 0 => some (.redSum i (rRed w))
  | 1 => some (.redMax i (rRed w))
  | 2 => some (.redMin i (rRed w))
  | _ => none

/-- UMODE. The reserved value stays with the block-matrix row, whose head check answers ILLEGAL_OP. -/
def decUpd (i : Issue) (w : Nat) : Instr :=
  match bits w 75 74 with
  | 0 => .updDiagonal i (rUpd w)
  | 1 => .updBlockMatrix i (rUpd w) .k4
  | 2 => .updBlockMatrix i (rUpd w) .k8
  | _ => .updBlockMatrix i (rUpd w) .reserved

/-- A COLL is the collective that its descriptor's OP names; a reserved OP takes the first row, whose meaning
records COLL_DESC (R220). -/
def decColl (i : Issue) (f : XferF) (op : Nat) : Instr :=
  match op with
  | 2 => .arX i f
  | 3 => .ag i f
  | 4 => .bc i f
  | 5 => .maxr i f
  | 6 => .minr i f
  | 7 => .arC i f
  | 8 => .pre i f
  | 9 => .digxSum i f
  | 10 => .digxAll i f
  | 11 => .status i f
  | 12 => .maxx i f
  | _ => .rsX i f

/-- XOP (R177). `coll` is the OP of the descriptor that a COLL names. -/
def decXfer (coll : XferF → Nat) (i : Issue) (w : Nat) : Option Instr :=
  let f := rXfer w
  match bits w 114 111 with
  | 0 => some (.load i f)
  | 1 => some (.store i f)
  | 2 => some (.xload i f)
  | 3 => some (.xstore i f)
  | 4 => some (.xsend i f)
  | 5 => some (decColl i f (coll f))
  | 6 => some (.square i f)
  | 7 => some (.streamStart i f)
  | 8 => some (.rowInstall i f)
  | 9 => some (.rowEvict i f)
  | 10 => some (.xtload i f)
  | 11 => some (.xtstore i f)
  | _ => none

def decRing (i : Issue) (w : Nat) : Option Instr :=
  match bits w 114 112 with
  | 0 => some (.ringSeq i (rRing w) ⟨0, 0⟩)
  | 1 => some (.ringTurn i (rRing w) ⟨0, 0⟩)
  | 2 => some (.ringSend i (rRing w))
  | 3 => some (.ringRecv i (rRing w))
  | 4 => some (.ringMcast i (rRing w))
  | _ => none

def decAlu (i : Issue) (w : Nat) : Instr :=
  let f := rAlu w
  match bits w 114 110 with
  | 0 => .aluAdd i f
  | 1 => .aluSub i f
  | 2 => .aluMul i f
  | 3 => .aluAnd i f
  | 4 => .aluOr i f
  | 5 => .aluXor i f
  | 6 => .aluShl i f
  | 7 => .aluShr i f
  | 8 => .aluSar i f
  | 9 => .aluMin i f
  | 10 => .aluMax i f
  | 11 => .aluMinu i f
  | 12 => .aluMaxu i f
  | 13 => .aluInshi i f
  | 14 => .aluRdspec i f
  | _ => .aluHnd i f

/-- The instruction that a word spells (R166): none for a reserved OPCODE or operation-select value. `coll` is the
OP of the descriptor that a COLL names; where a TURN puts its halves is no part of the word. -/
def decodeInsn (coll : XferF → Nat) (i : Issue) (w : Nat) : Option Instr :=
  match bits w 127 120 with
  | 0x01 => some (.mma i (rMma w))
  | 0x02 => some (.ldw i (rLdw w))
  | 0x03 => some (.conv i (rConv w))
  | 0x04 => decEwise i w
  | 0x05 => decRed i w
  | 0x06 => some (decUpd i w)
  | 0x07 => decXfer coll i w
  | 0x08 => decRing i w
  | 0x09 => some (if bit w 114 then .hqGet i (rHq w) else .hqPut i (rHq w))
  | 0x0A => some (if bit w 114 then .crossWait i (bv 6 w 108) else .crossArrive i (bv 6 w 108) (bv 5 w 103))
  | 0x0B => some (.swap i)
  | 0x0C => some (.wait i (bv 16 w 99))
  | 0x0D => some (if bit w 109 then .ctxSnapshot i (rCtx w) else .ctxReset i (rCtx w))
  | 0x0E =>
    match bits w 114 113 with
    | 0 => some (.sealClose i (bv 5 w 108))
    | 1 => some (.sealAwait i)
    | _ => none
  | 0x10 => some (.br i ⟨bit w 114, bv 5 w 109, bv 32 w 77⟩)
  | 0x11 => some (.loop i ⟨bv 5 w 110, bv 16 w 94⟩)
  | 0x12 => some (decAlu i w)
  | 0x13 => some (.setp i (rSetp w))
  | 0x1E => some (.yield i)
  | 0x1F => some (.halt i)
  | _ => none

/-- UMODE (R176). -/
def blockUmode (k : BlockK) : Nat :=
  match k with
  | .k4 => 1
  | .k8 => 2
  | .reserved => 3

/-- The word of an engine instruction; none for the other commands. -/
def encodeInsn (c : Instr) : Option (BitVec 128) :=
  match c with
  | .mma i f => some (wMma i f)
  | .ldw i f => some (wLdw i f)
  | .conv i f => some (wConv i f)
  | .ewiseMov i f => some (wEwise i 0 f)
  | .ewiseAdd i f => some (wEwise i 1 f)
  | .ewiseSub i f => some (wEwise i 2 f)
  | .ewiseMul i f => some (wEwise i 3 f)
  | .redSum i f => some (wRed i 0 f)
  | .redMax i f => some (wRed i 1 f)
  | .redMin i f => some (wRed i 2 f)
  | .updDiagonal i f => some (wUpd i 0 f)
  | .updBlockMatrix i f k => some (wUpd i (blockUmode k) f)
  | .load i f => some (wXfer i 0 f)
  | .store i f => some (wXfer i 1 f)
  | .xload i f => some (wXfer i 2 f)
  | .xstore i f => some (wXfer i 3 f)
  | .xsend i f => some (wXfer i 4 f)
  | .rsX i f | .arX i f | .ag i f | .bc i f | .maxr i f | .minr i f | .arC i f | .pre i f | .digxSum i f
  | .digxAll i f | .status i f | .maxx i f => some (wXfer i 5 f)
  | .square i f => some (wXfer i 6 f)
  | .streamStart i f => some (wXfer i 7 f)
  | .rowInstall i f => some (wXfer i 8 f)
  | .rowEvict i f => some (wXfer i 9 f)
  | .xtload i f => some (wXfer i 10 f)
  | .xtstore i f => some (wXfer i 11 f)
  | .ringSeq i f _ => some (wRing i 0 f)
  | .ringTurn i f _ => some (wRing i 1 f)
  | .ringSend i f => some (wRing i 2 f)
  | .ringRecv i f => some (wRing i 3 f)
  | .ringMcast i f => some (wRing i 4 f)
  | .hqPut i f => some (wHq i 0 f)
  | .hqGet i f => some (wHq i 1 f)
  | .crossArrive i cid mreg => some (wCross i 0 cid mreg)
  | .crossWait i cid => some (wCross i 1 cid 0)
  | .swap i => some (wSwap i)
  | .wait i tmask => some (wWait i tmask)
  | .ctxSnapshot i f => some (wCtx i true f)
  | .ctxReset i f => some (wCtx i false f)
  | .sealClose i dreg => some (wSeal i 0 dreg)
  | .sealAwait i => some (wSeal i 1 0)
  | .br i f => some (wBr i f)
  | .loop i f => some (wLoop i f)
  | .aluAdd i f => some (wAlu i 0 f)
  | .aluSub i f => some (wAlu i 1 f)
  | .aluMul i f => some (wAlu i 2 f)
  | .aluAnd i f => some (wAlu i 3 f)
  | .aluOr i f => some (wAlu i 4 f)
  | .aluXor i f => some (wAlu i 5 f)
  | .aluShl i f => some (wAlu i 6 f)
  | .aluShr i f => some (wAlu i 7 f)
  | .aluSar i f => some (wAlu i 8 f)
  | .aluMin i f => some (wAlu i 9 f)
  | .aluMax i f => some (wAlu i 10 f)
  | .aluMinu i f => some (wAlu i 11 f)
  | .aluMaxu i f => some (wAlu i 12 f)
  | .aluInshi i f => some (wAlu i 13 f)
  | .aluRdspec i f => some (wAlu i 14 f)
  | .aluHnd i f => some (wAlu i 15 f)
  | .setp i f => some (wSetp i f)
  | .yield i => some (wYield i)
  | .halt i => some (wHalt i)
  | _ => none

/-- A command without what its word does not hold. -/
def spelled (c : Instr) : Instr :=
  match c with
  | .ringTurn i f _ => .ringTurn i f ⟨0, 0⟩
  | .ringSeq i f _ => .ringSeq i f ⟨0, 0⟩
  | c => c

end Sys2Proof.Machine
end

