-- ==== Sys2Proof/Machine/Contexts.lean ====
section
/-! DEFINITION. Conversion and update contexts (R70, R197), the Gazetteer (R78 to R80), statistics
(R71, R72, R122, R126), shape descriptors (R76, R77). -/

namespace Sys2Proof.Machine

abbrev Cx := BitVec 1024

/-! ## Fields (bit positions of R70 and R197) -/

def ctxId (c : Cx) : Nat := fld c 831 808
def ctxIsUpd (c : Cx) : Bool := bit c.toNat 16
def ctxFmt (c : Cx) : Option Fmt := if ctxIsUpd c then none else fmtOfCode (fld c 7 0)
def ctxPin (c : Cx) : Bool := bit c.toNat 18
def ctxVer (c : Cx) : Bool := bit c.toNat 19
def ctxSealed (c : Cx) : Bool := bit c.toNat 20
def ctxPart (c : Cx) : Nat := fld c 23 21
def ctxOwner (c : Cx) : Nat := fld c 29 24
/-- GLOBAL_ID, or UGID of an update context. -/
def ctxGid (c : Cx) : Nat := fld c 63 40
def ctxShapePtr (c : Cx) : Nat := fld c 115 64
def ctxF (c : Cx) : Int := sfld c 137 128
def ctxFloorSrc (c : Cx) : Nat := fld c 139 138
def ctxRmode (c : Cx) : Nat := fld c 141 140
def ctxKerb (c : Cx) : Nat := fld c 143 142
def ctxClipEn (c : Cx) : Bool := bit c.toNat 144
def ctxSrAdv (c : Cx) : Bool := bit c.toNat 145
def ctxOsigSrc (c : Cx) : Bool := bit c.toNat 146
def ctxMargin (c : Cx) : Nat := fld c 149 147
def ctxSrKey (c : Cx) : Nat := fld c 155 152
def ctxDKey (c : Cx) : Nat := fld c 159 156
def ctxOsig (c : Cx) : Int := sfld c 167 160
def ctxSrStep (c : Cx) : Nat := fld c 219 192
def ctxClip (c : Cx) : U32 := BitVec.ofNat 32 (fld c 255 224)
def ctxMaxe (c : Cx) : Int := sfld c 271 256
def ctxGmaxe (c : Cx) : Int := sfld c 303 288
def ctxGmaxePrev (c : Cx) : Int := sfld c 319 304
def ctxYmaxe (c : Cx) : Int := sfld c 335 320
def ctxYgmaxe (c : Cx) : Int := sfld c 367 352
def ctxYgmaxePrev (c : Cx) : Int := sfld c 383 368
def ctxHslot (c : Cx) : Nat := fld c 395 384
def ctxHistEn (c : Cx) : Bool := bit c.toNat 396
def ctxHbase (c : Cx) : Int := sfld c 415 400
def ctxHoldMode (c : Cx) : Bool := bit c.toNat 416
def ctxDigest (c : Cx) : Nat := fld c 511 448
def ctxTag (c : Cx) : Nat := fld c 879 832
def updW (c : Cx) : Nat := fld c 503 480
def updM (c : Cx) : Nat := fld c 527 504
def updV (c : Cx) : Nat := fld c 551 528
def updG (c : Cx) : Nat := fld c 575 552
def updT (c : Cx) : Nat := fld c 479 448
def updRan (c : Cx) : Bool := bit c.toNat 416
def updRanTag (c : Cx) : Nat := fld c 399 352

/-- A 32-bit saturating counter field. -/
def ctxCount (c : Cx) (hi lo n : Nat) : Cx := setFld c hi lo (sat32 (fld c hi lo) n)

/-! ## Images -/

def ctxBytes (c : Cx) : List Byte := toLE 128 c.toNat

/-- The image written at page-out, with a fresh CRC of bytes 0 to 119 (R70). -/
def ctxSealed128 (c : Cx) : List Byte :=
  ctxBytes (setFld c 991 960 (crc32c ((ctxBytes c).take 120)))

def backAddr (p : Plane) (id : Nat) : Nat := (p.regs.ctxBase.toNat + 128 * id) % 2 ^ 52

/-- The backing copy of a context, when its CRC matches (R80). -/
def ctxBacking (p : Plane) (id : Nat) : Option Cx :=
  let b := memAt p (backAddr p id) 128
  let c : Cx := BitVec.ofNat 1024 (leNat b)
  if fld c 991 960 = crc32c (b.take 120) then some c else none

/-! ## The Gazetteer -/

/-- The resident copy of a context. -/
def ctxGet (p : Plane) (id : Nat) : Option Cx := spGet p.gaz.ways id

/-- A context wherever it is. -/
def ctxAny (p : Plane) (id : Nat) : Option Cx :=
  match ctxGet p id with
  | some c => some c
  | none => ctxBacking p id

/-- A field change of a resident context. -/
def ctxPut (p : Plane) (id : Nat) (c : Cx) : Plane :=
  { p with gaz := { p.gaz with ways := spPut p.gaz.ways id c } }

/-- A field change of a context wherever it is (R71 rotation, R73, R209). -/
def ctxPutAny (p : Plane) (id : Nat) (c : Cx) : Plane :=
  match ctxGet p id with
  | some _ => ctxPut p id c
  | none => agentWrite p none (backAddr p id) (ctxSealed128 c)

def ctxMod (p : Plane) (id : Nat) (f : Cx → Cx) : Plane :=
  match ctxGet p id with
  | some c => ctxPut p id (f c)
  | none => p

/-- Use of a context moves it to the front of the order of R78. -/
def ctxTouch (p : Plane) (id : Nat) : Plane :=
  { p with gaz := { p.gaz with lru := id :: p.gaz.lru.erase id } }

/-- A context that an instruction in flight names is locked (R78). -/
def ctxLocked (p : Plane) (id : Nat) : Bool := p.flights.any (fun f => f.ctxs.contains id)

def setMates (p : Plane) (id : Nat) : List Nat := (spKeys p.gaz.ways).filter (fun k => k % 4096 == id % 4096)

/-- Least recently used way of the set that is neither pinned nor locked. -/
def ctxVictim (p : Plane) (id : Nat) : Option Nat :=
  p.gaz.lru.reverse.find? (fun k =>
    k % 4096 == id % 4096 && (ctxGet p k).isSome && !((ctxGet p k).map ctxPin).getD false
      && !ctxLocked p k)

/-- Write a context back and free its way. -/
def ctxEvict (p : Plane) (id : Nat) : Plane :=
  match ctxGet p id with
  | none => p
  | some c =>
    let p := agentWrite p none (backAddr p id) (ctxSealed128 c)
    { p with gaz := { p.gaz with ways := spDel p.gaz.ways id, lru := p.gaz.lru.erase id } }

/-- Give a context a way of its set; none when every way is pinned or locked. A page-in that was under way has nothing
left to load. -/
def ctxInstall (p : Plane) (id : Nat) (c : Cx) : Option Plane :=
  let p := { p with gaz := { p.gaz with paging := p.gaz.paging.erase id } }
  if (ctxGet p id).isSome || decide ((setMates p id).length < 16) then
    some (ctxTouch (ctxPut p id c) id)
  else
    match ctxVictim p id with
    | some v => some (ctxTouch (ctxPut (ctxEvict p v) id c) id)
    | none => none

/-- The read of a page-in. -/
def pageRead (p : Plane) (id : Nat) : Plane :=
  (reqList (backAddr p id) 128).foldl (fun p r => agentReq p .read r.1 r.2 (.page id) none) p

/-- Ask for a page-in; one page-in serves every requester (R78). -/
def ctxWant (p : Plane) (id : Nat) : Plane :=
  if (ctxGet p id).isSome || p.gaz.paging.contains id || p.gaz.bad.contains id then p
  else pageRead { p with gaz := { p.gaz with paging := p.gaz.paging ++ [id] } } id

/-- No copy comes: CTX_PAGE_BAD is recorded and the ID marked for its requesters (R80). -/
def pageBad (p : Plane) (id : Nat) : Plane :=
  raise { p with gaz := { p.gaz with
      paging := p.gaz.paging.erase id
      bad := p.gaz.bad ++ [id] } } .ctxPageBad srcCore none (dInstr 0 0 0 0 (toLE 4 id)) []

/-- The read of a page-in is out. -/
def pageOut (p : Plane) (id : Nat) : Bool :=
  p.memp.any (fun m => (m.2.reqs ++ m.2.waiting).any (fun r => r.owner == .page id))

/-- The end of a page-in, once its read has its answer: the copy is loaded, unless its CRC does not match. While every
way of the set is pinned or locked the requesters wait. (log 36: DESIGN CHOICE, unsafe) -/
def pageInEnd (p : Plane) (id : Nat) : Plane :=
  if p.gaz.paging.contains id && !pageOut p id then
    match ctxBacking p id with
    | none => pageBad p id
    | some c =>
      match ctxInstall p id c with
      | some q => stallP q 0 1
      | none => stallP p 1 1
  else p

/-- A page-in of the hub for a list that it reads; where no way is free it reads the backing copy (log 93: DESIGN
CHOICE, safe). -/
def pageNow (p : Plane) (id : Nat) : Plane :=
  match ctxGet p id, ctxBacking p id with
  | none, some c =>
    match ctxInstall p id c with
    | some q => stallP q 0 1
    | none => stallP p 1 1
  | _, _ => p

/-- What a named context is to its requester. -/
inductive CtxSt where
  | there (c : Cx)
  | missing
  | bad
deriving DecidableEq, Repr

def ctxSt (p : Plane) (id : Nat) : CtxSt :=
  if p.gaz.bad.contains id then .bad
  else
    match ctxGet p id with
    | some c => .there c
    | none => .missing

/-- A conversion context of a format with the role (R199, R370). -/
inductive Role where
  | any
  | operand
  | output
  | update
deriving DecidableEq, Repr

def roleOk (r : Role) (c : Cx) : Bool :=
  match r with
  | .update => ctxIsUpd c
  | .any => !ctxIsUpd c
  | _ => !ctxIsUpd c && ((ctxFmt c).bind fmtElem).isSome

/-- The context, when it is resident and of the kind and role. -/
def ctxAs (p : Plane) (id : Nat) (r : Role) : Option Cx :=
  match ctxSt p id with
  | .there c => if roleOk r c then some c else none
  | _ => none

/-! ## Statistics -/

/-- First update in epoch `n` (R71, R133). -/
def ctxFirst (c : Cx) (n : Nat) : Cx :=
  if ctxTag c = n then c
  else
    let c := setSfld (setSfld c 335 320 (-256)) 367 352 (-256)
    let c := if ctxHoldMode c then c else setSfld (setSfld c 271 256 (-256)) 303 288 (-256)
    setFld (setFld c 511 448 0) 879 832 n

/-- Add what was written in epoch `n` (R67, R71, R72, R122, R133). -/
def ctxStats (c : Cx) (n : Nat) (d : StatDelta) : Cx :=
  if d.elems = 0 then c
  else
    let c := ctxFirst c n
    let c := setSfld c 271 256 (max (ctxMaxe c) d.maxe)
    let c := setSfld c 303 288 (max (ctxGmaxe c) d.maxe)
    let c := setSfld c 335 320 (max (ctxYmaxe c) d.ymaxe)
    let c := setSfld c 367 352 (max (ctxYgmaxe c) d.ymaxe)
    let c := setFld c 511 448 (digestAdd (ctxDigest c) d.digest)
    let c := setFld c 575 512 (fld c 575 512 + d.elems)
    let c := ctxCount c 607 576 d.flush
    let c := ctxCount c 639 608 d.sat
    let c := ctxCount c 671 640 d.clip
    let c := ctxCount c 703 672 d.nan
    let c := ctxCount c 735 704 d.inf
    ctxCount c 767 736 d.zero

def addNew (l : List Nat) (n : Nat) : List Nat := if l.contains n then l else l ++ [n]

/-! ## Changes that an epoch makes (R73, R128)

A task of epoch n may change a context or a histogram slot before epoch n - 1 has ended for every other task. The
account of epoch n - 1 then keeps the value without epoch n's change, and later changes of epoch n - 1 go to both.
(log 140: DEDUCED, unsafe) -/

def modEps (p : Plane) (i : Nat) (f : EpRec → EpRec) : Plane := modP p i (fun x => { x with epochs := x.epochs.map f })

def keepCtx (p : Plane) (i n id : Nat) : Plane :=
  match ctxAny p id with
  | none => p
  | some c => modEps p i (fun e =>
      if e.n + 1 = n ∧ e.phase = .running ∧ (spGet e.keptCtx id).isNone then
        { e with keptCtx := spPut e.keptCtx id c }
      else e)

/-- A change of kept copies of a context in the accounts of epoch `n` and later. -/
def keptMod (p : Plane) (i n id : Nat) (f : Cx → Cx) : Plane :=
  modEps p i (fun e => match spGet e.keptCtx id with
    | some c => if n ≤ e.n then { e with keptCtx := spPut e.keptCtx id (f c) } else e
    | none => e)

/-- A change of a context by epoch `n` of partition `i`. -/
def ctxUpd (p : Plane) (i n id : Nat) (f : Cx → Cx) : Plane :=
  let p := keptMod (keepCtx p i n id) i n id f
  match ctxAny p id with
  | some c => ctxPutAny p id (f c)
  | none => p

def slotOf (h : Sparse Nat) (slot : Nat) : Sparse Nat := h.filter (fun b => b.1 / 64 == slot)

/-- A change of the bins of a histogram slot by epoch `n` of partition `i`; the epoch notes the slot. -/
def histUpd (p : Plane) (i n slot : Nat) (f : Sparse Nat → Sparse Nat) : Plane :=
  let old := slotOf p.hist slot
  let p := modEps p i (fun e =>
    if e.n + 1 = n ∧ (e.phase = .running ∨ e.phase = .released) ∧ e.keptSlots.contains slot = false then
      { e with
        keptSlots := e.keptSlots ++ [slot]
        keptHist := old.foldl (fun h b => spPut h b.1 b.2) e.keptHist }
    else e)
  let p := modEps p i (fun e =>
    if n ≤ e.n ∧ e.keptSlots.contains slot = true then { e with keptHist := f e.keptHist } else e)
  modEp { p with hist := f p.hist } i n (fun e => { e with hist := addNew e.hist slot })

def histAdd (h : Sparse Nat) (slot : Nat) (bins : List Nat) : Sparse Nat :=
  bins.foldl (fun h b => spSet 0 h (slot * 64 + b) (sat32 (spGetD h (slot * 64 + b) 0) 1)) h

/-- The output context `id` of partition `i` takes the statistics of elements written in epoch `n`;
the ledger counts them too, and the epoch remembers the context (R240) and the slot (R128). -/
def applyStats (p : Plane) (i n id : Nat) (d : StatDelta) : Plane :=
  match ctxGet p id with
  | none => p
  | some c =>
    let p := ctxUpd p i n id (fun c => ctxStats c n d)
    let p := if ctxHistEn c then histUpd p i n (ctxHslot c) (fun h => histAdd h (ctxHslot c) d.bins) else p
    let p := ledgerAdd (ledgerAdd (ledgerAdd p 1448 d.flush) 1449 d.sat) 1450 d.clip
    let p := ledgerAdd (ledgerAdd (ledgerAdd p 1451 d.nan) 1452 d.inf) 1453 d.zero
    modEp p i n (fun e =>
      { e with
        sealedCtx := if ctxSealed c then addNew e.sealedCtx id else e.sealedCtx
        wrote := addNew e.wrote id })

/-- Pending granule counts move to a context (R94); conversion contexts only. -/
def addPending (p : Plane) (i n id gnan ginf : Nat) : Plane :=
  ctxUpd p i n id (fun c => ctxCount (ctxCount c 703 672 gnan) 735 704 ginf)

def histBytes (h : Sparse Nat) (slot : Nat) : List Byte :=
  (List.range 64).flatMap (fun b => toLE 4 (spGetD h (slot * 64 + b) 0))

/-- The statistics image (R126). -/
def statImage (p : Plane) (n : Nat) (c : Cx) : List Byte :=
  toLE 8 n ++ toLE 4 (ctxId c)
    ++ toLE 2 (ctxHslot c + (if ctxHistEn c then 2 ^ 15 else 0)) ++ toLE 2 (fld c 415 400)
    ++ toLE 8 (fld c 575 512) ++ toLE 4 (fld c 607 576) ++ toLE 4 (fld c 639 608)
    ++ toLE 4 (fld c 671 640) ++ toLE 4 (fld c 703 672) ++ toLE 4 (fld c 735 704)
    ++ toLE 4 (fld c 767 736) ++ toLE 8 (ctxDigest c) ++ toLE 2 (fld c 271 256)
    ++ toLE 2 (fld c 303 288) ++ toLE 2 (fld c 335 320) ++ toLE 2 (fld c 367 352)
    ++ (if ctxHistEn c then histBytes p.hist (ctxHslot c) else zeros 256)

/-- RESET of R126: ELEM_CNT, the six counters and the slot's bins. -/
def statReset (p : Plane) (i n id : Nat) : Plane :=
  match ctxGet p id with
  | none => p
  | some c =>
    let p := ctxUpd p i n id (fun c => setFld c 767 512 0)
    if ctxHistEn c then
      histUpd p i n (ctxHslot c) (fun h => (List.range 64).foldl (fun h b => spDel h (ctxHslot c * 64 + b)) h)
    else p

/-! ## Shape descriptors (R76) -/

structure Shape where
  elemA : Nat
  elemB : Nat
  scaleA : Nat
  scaleB : Nat
  rank : Nat
  blkdim : Nat
  sizes : List Nat
  /-- Element and scale strides of dimensions 1 to 5. -/
  estr : List Nat
  sstr : List Nat
deriving DecidableEq, Repr

def shapeOfWord (w : Nat) : Shape :=
  { elemA := bits w 51 0
    elemB := bits w 115 64
    scaleA := bits w 179 128
    scaleB := bits w 243 192
    rank := bits w 258 256
    blkdim := bits w 262 260
    sizes := [bits w 351 320, bits w 383 352, bits w 415 384, bits w 447 416, bits w 479 448,
      bits w 511 480]
    estr := [bits w 559 512, bits w 623 576, bits w 687 640, bits w 751 704, bits w 815 768]
    sstr := [bits w 863 832, bits w 895 864, bits w 927 896, bits w 959 928, bits w 991 960] }

def shapeAt (p : Plane) (a : Nat) : Shape := shapeOfWord (memNatAt p a 128)

def shapeOf (p : Plane) (c : Cx) : Shape := shapeAt p (ctxShapePtr c)

/-- Sizes of the dimensions in use. -/
def dims (s : Shape) : List Nat := s.sizes.take s.rank

def prodN (l : List Nat) : Nat := l.foldl (· * ·) 1

def elemsOf (s : Shape) : Nat := prodN (dims s)

def size0 (s : Shape) : Nat := s.sizes.getD 0 0

/-- Index along each dimension of logical index `i` (R61: dimension 0 innermost). -/
def coordsOf : List Nat → Nat → List Nat
  | [], _ => []
  | n :: t, i => (if n = 0 then 0 else i % n) :: coordsOf t (if n = 0 then 0 else i / n)

def indexOf : List Nat → List Nat → Nat
  | [], _ => 0
  | _, [] => 0
  | n :: t, i :: u => i + n * indexOf t u

def strideSum : List Nat → List Nat → Nat
  | [], _ => 0
  | _, [] => 0
  | i :: t, s :: u => i * s + strideSum t u

/-- Bytes of the padded dimension-0 row (R77). -/
def rowLen (f : Fmt) (s : Shape) : Nat := rowBytes f (decide (s.blkdim = 0)) (size0 s)

def alignedTo (a n : Nat) : Bool := decide (a % n = 0)

/-- R77: whether CTX_DEFINE accepts the descriptor for a format; `useB` when the copy-B bases serve. -/
def shapeOk (f : Fmt) (s : Shape) (ptr : Nat) (useB : Bool) : Bool :=
  let placed := f != .xafT
  decide (1 ≤ s.rank) && decide (s.rank ≤ 6) && (dims s).all (fun n => decide (0 < n))
    && decide (elemsOf s ≤ 2 ^ 36) && alignedTo ptr 128 && decide (s.blkdim < s.rank)
    && (!placed
      || ((!fmtIsNx f || decide (s.blkdim = 0))
        && (decide (s.rank < 2) || decide (rowLen f s ≤ s.estr.getD 0 0))
        && alignedTo s.elemA 128 && (!useB || alignedTo s.elemB 128)
        && (!fmtIsMx f || (alignedTo s.scaleA 128 && (!useB || alignedTo s.scaleB 128)))))

end Sys2Proof.Machine
end

