-- ==== Sys2Proof/Machine/Tensors.lean ====
section
/-! DEFINITION. How elements lie in lines (R170) and in memory (R37, R38, R46, R48, R76), and what an
output does: the OCU chain, the Kerb, the statistics, the bytes (R23, R121 to R133). -/

namespace Sys2Proof.Machine

/-! ## Packing (R37, R38) -/

def codesNat (bits : Nat) : List Nat → Nat
  | [] => 0
  | c :: t => c % 2 ^ bits + 2 ^ bits * codesNat bits t

/-- A run of codes from its start; unused bits are 0. -/
def packCodes (bits : Nat) (cs : List Nat) : List Byte :=
  (chunksOf 4 cs.length cs).flatMap (fun g => toLE (runBytes bits g.length) (codesNat bits g))

/-- The first `n` codes of a run. -/
def unpackCodes (bits n : Nat) (bs : List Byte) : List Nat :=
  ((chunksOf (bits / 2) bs.length bs).flatMap (fun g =>
    let w := leNat g
    (List.range 4).map (fun i => w / 2 ^ (bits * i) % 2 ^ bits))).take n

/-! ## Lines (R170) -/

def padUnit (bs : List Byte) : List Byte := bs ++ zeros ((128 - bs.length % 128) % 128)

def unitsOf (n : Nat) : Nat := (n + 127) / 128

/-- Bytes of a line before padding to whole units. -/
def lineRaw (f : Fmt) (n : Nat) : Nat :=
  match fmtElem f with
  | none => if f = .xaf136 then 24 * n else n
  | some k =>
    let b := (n + 31) / 32
    if fmtIsNx f then b * nxRecordBytes k
    else if fmtIsMx f then b * blockElemBytes k + b
    else runBytes (elemBits k) n

def lineUnits (f : Fmt) (n : Nat) : Nat := unitsOf (lineRaw f n)

/-- Decoded elements of a line. -/
def lineRead (f : Fmt) (n : Nat) (bs : List Byte) : List XVal :=
  match fmtElem f with
  | none => []
  | some k =>
    if fmtIsNx f then
      ((chunksOf (nxRecordBytes k) ((n + 31) / 32) bs).flatMap (fun r =>
        let e := blockElemBytes k
        let sc := ((r.drop e).headD 0).toNat
        let sh := ((r.drop (e + 1)).headD 0).toNat
        ((unpackCodes (elemBits k) 32 r).zipIdx).map (fun p =>
          decodeIn f p.1 sc (nxShift sh (p.2 / 8))))).take n
    else if fmtIsMx f then
      let b := (n + 31) / 32
      let codes := unpackCodes (elemBits k) (32 * b) (bs.take (b * blockElemBytes k))
      let scales := (bs.drop (b * blockElemBytes k)).take b
      ((chunksOf 32 b codes).zip scales).flatMap (fun p =>
        p.1.map (fun c => decodeIn f c p.2.toNat 0)) |>.take n
    else (unpackCodes (elemBits k) n bs).map (fun c => decodeIn f c 0 0)

/-! ## Output elements and blocks -/

/-- What memory holds of an element: its code, and the scale and the shifts of its block. -/
structure StoredCode where
  code : Nat
  scale : Nat
  shifts : Nat
deriving DecidableEq, Repr

/-- One element on its way out: logical index, y32 of R23 step 4, the flush of step 3, and the stored code of an
element that is written as it was read (R213). -/
structure OutVal where
  idx : Nat
  y : U32
  fl : Bool
  kept : Option StoredCode
deriving DecidableEq, Repr

/-- A narrowed block with the elements it came from. -/
structure OutRun where
  elems : List (OutVal × XVal × OutElem)
  scale : Nat
  shifts : Nat
deriving DecidableEq, Repr

/-- Which block an element lies in: its coordinates with the one along BLKDIM divided by 32. -/
def blockKey (sh : Shape) (idx : Nat) : List Nat :=
  ((coordsOf (dims sh) idx).zipIdx).map (fun p => if p.2 = sh.blkdim then p.1 / 32 else p.1)

/-- Group by block, blocks in the order in which they are first reached; the latest block first. -/
def groupStep (sh : Shape) (acc : List (List Nat × List OutVal)) (o : OutVal) :
    List (List Nat × List OutVal) :=
  let k := blockKey sh o.idx
  let rec put : List (List Nat × List OutVal) → List (List Nat × List OutVal)
    | [] => [(k, [o])]
    | (q, l) :: t => if q = k then (q, l ++ [o]) :: t else (q, l) :: put t
  match acc with
  | (q, l) :: t => if q = k then (q, l ++ [o]) :: t
      else if t.any (fun x => x.1 == k) then put acc else (k, [o]) :: acc
  | [] => [(k, [o])]

/-- (log 33: DEDUCED, unsafe) -/
def blocksOf (f : Fmt) (sh : Shape) (els : List OutVal) : List (List OutVal) :=
  if fmtIsBlock f then ((els.foldl (groupStep sh) []).map Prod.snd).reverse
  else els.map (fun o => [o])

/-- Settings an output needs beside its context (R55). -/
structure OutSet where
  mode : Nat
  dkey : U64
  srkey : U64
  step : Nat
deriving DecidableEq, Repr

def kerbOf (c : Cx) (f : Fmt) (k : Elem) (mode : Nat) : Kerb :=
  { fmt := f
    elem := k
    kerb := ctxKerb c
    mode := mode
    clip := if ctxClipEn c then
        (match fp32Read (ctxClip c) with
          | .fin d => some d
          | _ => none)
      else none }

/-- z of R23 step 5. -/
def sigmaOf (c : Cx) (y : U32) : XVal :=
  match fp32Read y with
  | .fin d => .fin (dyScale d (ctxOsig c))
  | x => x

/-- The fate of a stored value that is written again. -/
def keptFate : XVal → Fate
  | .nan => .nan
  | .pinf | .ninf => .infinite
  | _ => .stored

/-- A block whose elements are all written as they were read: the codes, the scale and the shifts stay. -/
def keptBlock (f : Fmt) (els : List OutVal) : OutRun :=
  let ks := els.filterMap (fun o => o.kept.map (fun k => (o, k)))
  let elem (i : Nat) (k : StoredCode) : OutElem :=
    let v := decodeIn f k.code k.scale (nxShift k.shifts (i / 8))
    ⟨k.code, v, keptFate v, false⟩
  ⟨(ks.zipIdx).map (fun x => (x.1.1, (elem x.2 x.1.2).stored, elem x.2 x.1.2)),
    ((ks.head?).map (fun x => x.2.scale)).getD 0, ((ks.head?).map (fun x => x.2.shifts)).getD 0⟩

/-- Elements of a block that others of it are computed anew are narrowed again with them
(log 138: DESIGN CHOICE, unsafe). -/
def outBlock (c : Cx) (f : Fmt) (k : Elem) (os : OutSet) (els : List OutVal) : OutRun :=
  if els.all (fun o => o.kept.isSome) then keptBlock f els
  else
    let zs := els.map (fun o => (sigmaOf c o.y,
      if os.mode = 2 then sr16 os.srkey (ctxGid c) os.step o.idx else 0))
    let b := narrowBlock (kerbOf c f k os.mode) zs
    ⟨(els.zip (zs.zip b.elems)).map (fun p => (p.1, p.2.1.1, p.2.2)), b.scale, b.shifts⟩

def runFirst (r : OutRun) : Nat :=
  match r.elems with
  | [] => 0
  | e :: t => t.foldl (fun n x => min n x.1.idx) e.1.idx

/-- Statistics and digest of one block (R67, R122, R132, R133). -/
def runStats (c : Cx) (f : Fmt) (os : OutSet) (r : OutRun) : StatDelta :=
  let gid := ctxGid c
  let s := r.elems.foldl (fun s e =>
    statJoin s (statElem e.2.2 e.1.y e.2.1 e.1.fl
      (digestTerm os.dkey gid e.1.idx (e.2.2.code : Int))
      (if ctxHistEn c then some (histBin (ctxHbase c) e.2.1) else none))) statZero
  let i0 := runFirst r
  let d := if fmtIsBlock f then digestTerm os.dkey gid (2 ^ 36 + i0) (r.scale : Int) else 0
  let d := if fmtIsNx f then digestAdd d (digestTerm os.dkey gid (2 ^ 37 + i0) (r.shifts : Int)) else d
  { s with digest := digestAdd s.digest d }

/-- All blocks of an output. -/
def outRuns (c : Cx) (f : Fmt) (k : Elem) (os : OutSet) (sh : Shape) (els : List OutVal) :
    List OutRun :=
  (blocksOf f sh els).map (outBlock c f k os)

def outStats (c : Cx) (f : Fmt) (os : OutSet) (rs : List OutRun) : StatDelta :=
  rs.foldl (fun s r => statJoin s (runStats c f os r)) statZero

/-! ## Output to a line -/

def fill32 (cs : List Nat) : List Nat := (cs ++ List.replicate 32 0).take 32

/-- The bytes of one line, whole units. -/
def lineBytes (f : Fmt) (k : Elem) (rs : List OutRun) : List Byte :=
  let codes (r : OutRun) : List Nat := r.elems.map (fun e => e.2.2.code)
  padUnit
    (if fmtIsNx f then
      rs.flatMap (fun r => packCodes (elemBits k) (fill32 (codes r)) ++ toLE 1 r.scale
        ++ toLE 1 r.shifts)
    else if fmtIsMx f then
      rs.flatMap (fun r => packCodes (elemBits k) (fill32 (codes r)))
        ++ rs.flatMap (fun r => toLE 1 r.scale)
    else packCodes (elemBits k) (rs.flatMap codes))

/-! ## Output to memory: bytes staged over what memory holds -/

abbrev Stage := Sparse Byte

def stGet (m : Mem) (s : Stage) (a : Nat) : Byte := (spGet s a).getD (memGet 0 m a)

def stPut (s : Stage) : Nat → List Byte → Stage
  | _, [] => s
  | a, b :: t => stPut (spPut s a b) (a + 1) t

/-- Write code number `pos` of the run that starts at `base`. (log 32: DESIGN CHOICE, unsafe) -/
def putCode (m : Mem) (bits base pos code : Nat) (s : Stage) : Stage :=
  if bits = 4 then
    let a := base + pos / 2
    let lo := 4 * (pos % 2)
    stPut s a (toLE 1 (setBits (stGet m s a).toNat (lo + 3) lo code))
  else if bits = 6 then
    let a := base + pos / 4 * 3
    let lo := 6 * (pos % 4)
    let w := leNat [stGet m s a, stGet m s (a + 1), stGet m s (a + 2)]
    stPut s a (toLE 3 (setBits w (lo + 5) lo code))
  else stPut s (base + pos * (bits / 8)) (toLE (bits / 8) code)

/-- Read code number `pos`. -/
def getCode (m : Mem) (bits base pos : Nat) : Nat :=
  if bits = 4 then (memGet 0 m (base + pos / 2)).toNat / 2 ^ (4 * (pos % 2)) % 16
  else if bits = 6 then memNat 0 m (base + pos / 4 * 3) 3 / 2 ^ (6 * (pos % 4)) % 64
  else memNat 0 m (base + pos * (bits / 8)) (bits / 8)

/-- Base of the run (or NX record) of an element and its position in it. -/
def elemPlace (f : Fmt) (k : Elem) (sh : Shape) (copyB : Bool) (cs : List Nat) : Nat × Nat :=
  let base := (if copyB then sh.elemB else sh.elemA) + strideSum (cs.drop 1) sh.estr
  let i0 := cs.headD 0
  if fmtIsNx f then (base + i0 / 32 * nxRecordBytes k, i0 % 32) else (base, i0)

/-- Address of the scale byte of an element's block. -/
def scalePlace (f : Fmt) (k : Elem) (sh : Shape) (copyB : Bool) (cs : List Nat) : Nat :=
  if fmtIsNx f then (elemPlace f k sh copyB cs).1 + blockElemBytes k
  else
    let q := (cs.zipIdx).map (fun p => if p.2 = sh.blkdim then p.1 / 32 else p.1)
    (if copyB then sh.scaleB else sh.scaleA) + q.headD 0 + strideSum (q.drop 1) sh.sstr

def setCoord (cs : List Nat) (d i : Nat) : List Nat :=
  (cs.zipIdx).map (fun p => if p.2 = d then i else p.1)

/-- Codes that share a byte, or a three-byte group. -/
def codesPerGroup (k : Elem) : Nat := if elemBits k = 4 then 2 else if elemBits k = 6 then 4 else 1

/-- Stage one code; the last code of a dimension-0 row also clears the unused bits beside it (R38). -/
def stageCode (m : Mem) (f : Fmt) (k : Elem) (sh : Shape) (copyB : Bool) (s : Stage) (cs : List Nat)
    (code : Nat) : Stage :=
  let pl := elemPlace f k sh copyB cs
  let s := putCode m (elemBits k) pl.1 pl.2 code s
  if cs.headD 0 + 1 = size0 sh then
    ((List.range 4).filter (fun j => decide (pl.2 + 1 + j < (pl.2 / codesPerGroup k + 1) * codesPerGroup k))).foldl
      (fun s j => putCode m (elemBits k) pl.1 (pl.2 + 1 + j) 0 s) s
  else s

/-- Stage one block: codes, padding codes of a partial last block (R46), scale and shift (R47). -/
def stageRun (m : Mem) (f : Fmt) (k : Elem) (sh : Shape) (copyB : Bool) (s : Stage) (r : OutRun) :
    Stage :=
  let put := stageCode m f k sh copyB
  let s := r.elems.foldl (fun s e => put s (coordsOf (dims sh) e.1.idx) e.2.2.code) s
  match r.elems with
  | [] => s
  | e :: _ =>
    let cs := coordsOf (dims sh) e.1.idx
    if fmtIsBlock f then
      let n := sh.sizes.getD sh.blkdim 0
      let b := cs.getD sh.blkdim 0 / 32 * 32
      let s := (List.range 32).foldl (fun s i =>
        if n ≤ b + i then put s (setCoord cs sh.blkdim (b + i)) 0 else s) s
      let a := scalePlace f k sh copyB cs
      stPut s a (if fmtIsNx f then toLE 1 r.scale ++ toLE 1 r.shifts else toLE 1 r.scale)
    else s

/-- Everything an output writes to memory, rising by address. -/
def stageAll (m : Mem) (f : Fmt) (k : Elem) (sh : Shape) (copyB : Bool) (rs : List OutRun) : Stage :=
  rs.foldl (stageRun m f k sh copyB) []

/-- Staged bytes as runs of consecutive addresses. -/
def runsAcc : List (Nat × List Byte) → Stage → List (Nat × List Byte)
  | acc, [] => acc
  | [], (a, b) :: t => runsAcc [(a, [b])] t
  | (s, l) :: r, (a, b) :: t =>
    if s + l.length = a then runsAcc ((s, l ++ [b]) :: r) t else runsAcc ((a, [b]) :: (s, l) :: r) t

def stageSpans (s : Stage) : List (Nat × List Byte) := (runsAcc [] s).reverse

/-! ## Reading a tensor from memory -/

def storedAt (m : Mem) (f : Fmt) (sh : Shape) (copyB : Bool) (idx : Nat) : Option (StoredCode × Nat) :=
  (fmtElem f).map (fun k =>
    let cs := coordsOf (dims sh) idx
    let pl := elemPlace f k sh copyB cs
    let code := getCode m (elemBits k) pl.1 pl.2
    if fmtIsBlock f then
      let a := scalePlace f k sh copyB cs
      (⟨code, (memGet 0 m a).toNat, if fmtIsNx f then (memGet 0 m (a + 1)).toNat else 0⟩, pl.2)
    else (⟨code, 0, 0⟩, pl.2))

def tensorRead (m : Mem) (f : Fmt) (sh : Shape) (copyB : Bool) (idx : Nat) : XVal :=
  match storedAt m f sh copyB idx with
  | none => .nan
  | some s => decodeIn f s.1.code s.1.scale (nxShift s.1.shifts (s.2 / 8))

/-- Bytes that a read of elements touches, as spans. -/
def tensorBytes (f : Fmt) (sh : Shape) (copyB : Bool) (l0 n : Nat) : List (Nat × List Byte) :=
  match fmtElem f with
  | none => []
  | some k =>
    stageSpans ((List.range n).foldl (fun s j =>
      let cs := coordsOf (dims sh) (l0 + j)
      let pl := elemPlace f k sh copyB cs
      let b := elemBits k
      let s := if b = 4 then stPut s (pl.1 + pl.2 / 2) [0]
        else if b = 6 then stPut s (pl.1 + pl.2 / 4 * 3) [0, 0, 0]
        else stPut s (pl.1 + pl.2 * (b / 8)) (zeros (b / 8))
      if fmtIsBlock f then
        stPut s (scalePlace f k sh copyB cs) (if fmtIsNx f then [0, 0] else [0])
      else s) [])

/-! ## Block rules (R170, R173, R174, R203) -/

/-- Element `idx` lies in the set that has `rows` runs of `n` elements, `step` apart from `l0`. -/
def inRuns (l0 step rows n idx : Nat) : Bool :=
  decide (l0 ≤ idx) && decide ((idx - l0) % max step 1 < n) && decide ((idx - l0) / max step 1 < rows)

/-- Every block that the set touches lies in it whole: for an output whose blocks run along a dimension
other than 0, and for tiles (R173). -/
def wholeBlocks (sh : Shape) (l0 step rows n : Nat) : Bool :=
  let d := sh.blkdim
  let sz := sh.sizes.getD d 0
  let logical := prodN ((dims sh).take d)
  (List.range rows).all (fun r =>
    (List.range n).all (fun j =>
      let idx := l0 + r * step + j
      let i := idx / max logical 1 % max sz 1
      (List.range 32).all (fun q =>
        let t := i / 32 * 32 + q
        decide (sz ≤ t) || inRuns l0 step rows n (idx - i * logical + t * logical))))

/-- A contiguous range in a block format: R174, and R203 for one row. -/
def lineBlocks (sh : Shape) (l0 n : Nat) : Bool :=
  let s0 := max (size0 sh) 1
  if sh.blkdim = 0 then
    let e := l0 + n
    decide (l0 % s0 % 32 = 0)
      && (decide (e % s0 % 32 = 0) || decide (e % s0 = 0))
      && (decide ((e - 1) / s0 = l0 / s0) || decide (s0 % 32 = 0))
  else wholeBlocks sh l0 n 1 n

end Sys2Proof.Machine
end

