-- ==== Sys2Proof/Machine/Operands.lean ====
section
/-! DEFINITION. Operand forms: registers, buffer addresses (R136, R137, R146, R168), memory addresses
(R169), floors (R15 to R18), Plaza tiles (R90). -/

namespace Sys2Proof.Machine

/-! ## Registers and predicates (R163) -/

def rGet (t : TaskRegs) (r : BitVec 5) : Nat :=
  if r.toNat = 0 then 0 else (spGetD t.s r.toNat 0#64).toNat

def rPut (t : TaskRegs) (r : BitVec 5) (v : Nat) : TaskRegs :=
  if r.toNat = 0 then t else { t with s := spSet 0#64 t.s r.toNat (BitVec.ofNat 64 v) }

def pGet (t : TaskRegs) (k : BitVec 3) : Bool := if k.toNat = 0 then true else bit t.p.toNat k.toNat

def pPut (t : TaskRegs) (k : BitVec 3) (b : Bool) : TaskRegs :=
  if k.toNat = 0 then t
  else { t with p := setFld t.p k.toNat k.toNat (if b then 1 else 0) }

/-- R169: a register and a signed byte offset of 24 bits. -/
def memAddr (r : Nat) (off : BitVec 24) : Nat := unsigned 52 ((r : Int) + off.toInt)

/-- The low 52 bits of a register that holds an address. -/
def addr52 (r : Nat) : Nat := r % 2 ^ 52

/-! ## Parts of the operand buffer (R136) -/

inductive BufPart where
  | swapping
  | res
  | ring
  | pool
deriving DecidableEq, Repr

def cfgRes (c : U32) : Nat := fld c 7 0
def cfgRing (c : U32) : Nat := fld c 15 8
def cfgPool (c : U32) : Nat := fld c 23 16

/-- Part of a unit of a half: RES, RING, POOL from the top down, in 64 KiB. -/
def bufPart (c : U32) (unit : Nat) : BufPart :=
  let k := unit / 512
  if 48 - cfgRes c ≤ k then .res
  else if 48 - cfgRes c - cfgRing c ≤ k then .ring
  else if 48 - cfgRes c - cfgRing c - cfgPool c ≤ k then .pool
  else .swapping

/-- What an instruction does with a buffer operand (R137). -/
inductive BufUse where
  | read
  | fill
  | output
deriving DecidableEq, Repr

/-- A span of units of one half of a virtual engine's buffer. -/
structure BufAt where
  veng : Nat
  half : Nat
  unit : Nat
  span : Nat
deriving DecidableEq, Repr

/-! ## Handles (R146) -/

def hClass (h : Nat) : Nat := bits h 31 28
def hVeng (h : Nat) : Nat := bits h 25 20
def hHalf (h : Nat) : Nat := bits h 19 19
def hOffset (h : Nat) : Nat := bits h 14 0
def hUnits (h : Nat) : Nat := 2 ^ hClass h

/-- The buffer lies inside the POOL part of its half. -/
def handleOk (p : Plane) (h : Nat) : Bool :=
  let c := (getV p (hVeng h)).bufCfg
  decide (hClass h ≤ 14) && decide (hOffset h + hUnits h ≤ 24576)
    && (bufPart c (hOffset h) == .pool) && (bufPart c (hOffset h + hUnits h - 1) == .pool)

def handleAt (h : Nat) : BufAt := ⟨hVeng h, hHalf h, hOffset h, hUnits h⟩

/-- R168: the buffer address of register value `r` and offset field `o`, with the faults that its span
of `n` units raises. The offset's bit 15 in handle mode is beyond every buffer (log 21: DEDUCED, unsafe). -/
def bufResolve (p : Plane) (v r o n : Nat) (use : BufUse) : BufAt × List Code :=
  if bit r 63 then
    let h := r % 2 ^ 32
    let u := o % 2 ^ 15
    (⟨hVeng h, hHalf h, hOffset h + u, n⟩,
      (if bit o 15 then [.handleRange] else [])
        ++ (if handleOk p h && decide (u + n ≤ hUnits h) then [] else [.handleRange]))
  else
    let a := (r % 2 ^ 16 + o) % 2 ^ 16
    let unit := a % 2 ^ 15
    let hsel := a / 2 ^ 15
    let e := getV p v
    let part := bufPart e.bufCfg unit
    let half := if part = .swapping then (if e.frontB then 1 - hsel else hsel) else hsel
    let role : Bool := match use with
      | .read => hsel == 1
      | .fill => hsel == 0
      | .output => hsel == 1
    (⟨v, half, unit, n⟩,
      if 24576 < unit + n then [.bufRange]
      else if part ≠ bufPart e.bufCfg (unit + n - 1) ∨ (part = .swapping ∧ role = true) then [.bufRole]
      else [])

/-! ## Bytes of the operand buffer; a hosted virtual engine's are backed by memory (R159) -/

/-- v is the second virtual engine of its host: the host's own, then the lower-numbered, is first. (log 45: DEDUCED, safe) -/
def isHosted (p : Plane) (v : Nat) : Bool :=
  let e := (getV p v).host
  (hostedOn p e).any (fun w => w != v && (w == e || (v != e && decide (w < v))))

def halfBytes : Nat := 3145728

/-- Spill area of a virtual engine (R159). -/
def spillAddr (p : Plane) (v off : Nat) : Nat := (p.regs.spillBase.toNat + 2 ^ 25 * v + off) % 2 ^ 52

def backBuf (p : Plane) (v a : Nat) : Nat := spillAddr p v (6291456 + a)

def bufRead (p : Plane) (v half byte n : Nat) : List Byte :=
  let a := half * halfBytes + byte
  if isHosted p v then memAt p (backBuf p v a) n else memRead 0 (getV p v).buf a n

def bufWrite (p : Plane) (v half byte : Nat) (bs : List Byte) : Plane :=
  let a := half * halfBytes + byte
  if isHosted p v then memStore p (backBuf p v a) bs
  else modV p v (fun e => { e with buf := memWrite 0 e.buf a bs })

def bufGet (p : Plane) (b : BufAt) (n : Nat) : List Byte := bufRead p b.veng b.half (128 * b.unit) n

def bufPut (p : Plane) (b : BufAt) (bs : List Byte) : Plane := bufWrite p b.veng b.half (128 * b.unit) bs

/-- The 64 KiB regions of a span (R187). -/
def bufRegions (b : BufAt) : List (Nat × Nat) :=
  let lo := b.unit / 512
  let hi := (b.unit + b.span - 1) / 512
  (List.range (hi + 1 - lo)).map (fun k => (b.veng, 48 * b.half + lo + k))

/-- Unit u of a span's `i`-th line of `w` units. -/
def lineAt (b : BufAt) (i w : Nat) : BufAt := { b with unit := b.unit + i * w, span := w }

/-! ## Floors (R15 to R18, R55, R70) -/

/-- Floor of FSRC 0 to 3 and whether it is the delayed one; `octx` is needed for 0 and 2. -/
def floorFrom (fsrc : Nat) (fimm : BitVec 10) (octx : Option Cx) (ea eb : Int) : Int × Bool :=
  let kind := match fsrc, octx with
    | 0, some c => ctxFloorSrc c + 1
    | k, _ => k
  let imm := match fsrc, octx with
    | 0, some c => ctxF c
    | _, _ => fimm.toInt
  match kind with
  | 1 => (autoFloor ea eb, false)
  | 2 => (delayedFloor ((octx.map ctxGmaxePrev).getD (-256)), true)
  | _ => (imm, false)

/-- FSRC reads the output context. -/
def floorNeedsCtx (fsrc : Nat) : Bool := fsrc == 0 || fsrc == 2

/-! ## Tiles (R90) -/

/-- Groups of a tile. -/
def tileGroups (bgrp m : Nat) : List Nat :=
  (List.range ((16 * bgrp + m - 1) / 16 + 1 - bgrp)).map (fun k => bgrp + k)

def tileFaults (bgrp m : Nat) : List Code :=
  (if 1 ≤ m ∧ m ≤ 1280 then [] else [.fieldRange])
    ++ (if 16 * bgrp + m ≤ 1280 then [] else [.plazaRange])

end Sys2Proof.Machine
end

