-- ==== Sys2Proof/Machine/Flags.lean ====
section
/-! DEFINITION. The scalar results: ALU operations and SETP comparisons (R183). -/

namespace Sys2Proof.Machine

/-- The second operand: s[SB] or the sign-extended immediate. -/
def aluB (t : TaskRegs) (sb : BitVec 5) (i : Bool) (imm : BitVec 48) : U64 :=
  if i then BitVec.ofInt 64 imm.toInt else BitVec.ofNat 64 (rGet t sb)

def aluA (t : TaskRegs) (sa : BitVec 5) : U64 := BitVec.ofNat 64 (rGet t sa)

def aluShlV (a b : U64) : U64 := a <<< (b.toNat % 64)
def aluShrV (a b : U64) : U64 := a >>> (b.toNat % 64)
def aluSarV (a b : U64) : U64 := a.sshiftRight (b.toNat % 64)
def aluMinV (a b : U64) : U64 := if a.toInt ≤ b.toInt then a else b
def aluMaxV (a b : U64) : U64 := if a.toInt ≤ b.toInt then b else a
def aluMinuV (a b : U64) : U64 := if a.toNat ≤ b.toNat then a else b
def aluMaxuV (a b : U64) : U64 := if a.toNat ≤ b.toNat then b else a
def aluInshiV (a b : U64) : U64 := BitVec.ofNat 64 (a.toNat % 2 ^ 48 + b.toNat % 2 ^ 16 * 2 ^ 48)
def aluHndV (b : U64) : U64 := BitVec.ofNat 64 (2 ^ 63 + b.toNat % 2 ^ 32)

/-- The comparison CMP selects; 6 and 7 are reserved. -/
def setpCmp (cmp : BitVec 3) (a b : U64) : Option Bool :=
  match cmp.toNat with
  | 0 => some (a == b)
  | 1 => some (a != b)
  | 2 => some (decide (a.toInt < b.toInt))
  | 3 => some (decide (b.toInt ≤ a.toInt))
  | 4 => some (decide (a.toNat < b.toNat))
  | 5 => some (decide (b.toNat ≤ a.toNat))
  | _ => none

/-- COMB: how the comparison joins the old value; 0b11 is reserved. -/
def setpComb (comb : BitVec 2) (old c : Bool) : Option Bool :=
  match comb.toNat with
  | 0 => some c
  | 1 => some (old && c)
  | 2 => some (old || c)
  | _ => none

end Sys2Proof.Machine
end

