-- ==== Sys2Proof/Machine/Issue.lean ====
section
/-! DEFINITION. What the issue of an engine instruction is made of: the sequencer's gate, the fetched word, the
waits of R140, the issue check, the faults, the marks of an issue, and the next PC (R163 to R196, R365). -/

namespace Sys2Proof.Machine

/-! ## The issuing task -/

structure Env where
  i : Issue
  v : Nat
  s : Nat
  pi : Nat
  ep : Nat
  t : Task
  src : Nat
deriving DecidableEq, Repr

def envOf (p : Plane) (i : Issue) (pi : Nat) : Env :=
  let t := getT p i.veng.val i.slot.val
  ⟨i, i.veng.val, i.slot.val, pi, t.epoch, t, homePort p i.veng.val⟩

def Env.r (e : Env) (k : BitVec 5) : Nat := rGet e.t.regs k
def Env.r32 (e : Env) (k : BitVec 5) : Nat := rGet e.t.regs k % 2 ^ 32
def Env.r36 (e : Env) (k : BitVec 5) : Nat := rGet e.t.regs k % 2 ^ 36
/-- A register that names a context (R169). -/
def Env.rCtx (e : Env) (k : BitVec 5) : Nat := rGet e.t.regs k % 2 ^ 24

/-- Whether the sequencer looks at the slot: none when there is nothing to issue, else the stall
counter that holds it (R308, R253, R365). -/
inductive Gate where
  | nothing
  | held (counter : Nat)
  | go (pi : Nat)
deriving DecidableEq, Repr

/-- The slot may issue once its turn comes. -/
def gate (p : Plane) (i : Issue) : Gate :=
  let v := i.veng.val
  match partOf p v with
  | none => .nothing
  | some pi =>
    if p.regs.state ≠ .ready ∨ (getT p v i.slot.val).st ≠ .active
        ∨ (getPhys p (homePort p v)).power ≠ .active ∨ (getV p v).moveTo ≠ none then .nothing
    else if !p.pins.quiesceN then .held 11
    else if (getP p pi).rollback.isSome then .held 7
    else .go pi

/-! ## The fetched word (R165, R184, R284) -/

def ninsnOf (p : Plane) (v : Nat) : Nat := ((getV p v).prog.map Prog.ninsn).getD 0

/-- The instructions of an image follow its header of 128 B, 16 B each. -/
def insnAddr (p : Plane) (v pc : Nat) : Nat := ((getV p v).prog.map Prog.addr).getD 0 + 128 + 16 * pc

/-- The word at the task's PC; the cache changes nothing but speed (R165). -/
def insnAt (p : Plane) (e : Env) : BitVec 128 := BitVec.ofNat 128 (memNatAt p (insnAddr p e.v e.t.regs.pc) 16)

/-! ## What an instruction asks for -/

structure Plan where
  /-- A reserved value of an operation-select field (R166). -/
  ill : Bool
  head : List Code
  /-- Image of the queue that an HQ_INVALID names (R147). -/
  obj : List Byte
  ctxs : List (Nat × Role)
  /-- Contexts whose tensors it writes in memory (R250). -/
  outs : List Nat
  /-- Stall counters of the waits that hold it, beside those that the shared part finds. -/
  holds : List Nat
  /-- The first fault of the issue check after CTX_PAGE_BAD and PART_VIOLATION of contexts. -/
  check : Option (Code × List Byte)
  /-- It stays in flight after its issue step. -/
  flies : Bool
  memTrk : Bool
  ringTrk : Bool
  tag : Option Nat
  groups : List (Nat × GAccess)
  release : Bool
  rd : List BufAt
  wr : List BufAt
  /-- Regions that stay reserved while it is in flight (R85). -/
  keep : List (Nat × Nat)
  /-- GRANULE_MISMATCH of an MMA at issue, before the context faults in R192's order. -/
  gran : Bool
  /-- Update context whose SKEW_CNT a STEP_SKEW counts (R197). -/
  skew : Option Nat
  finish : Finish
  /-- Steps in which the array and the OCU act (R315, R365). -/
  arr : Nat
  ocu : Nat
  /-- Taken branch target, or else how far the PC moves. -/
  jump : Option Nat
  skip : Nat
deriving DecidableEq, Repr

/-- An instruction that does nothing but retire. -/
def plan0 : Plan :=
  { ill := false, head := [], obj := [], ctxs := [], outs := [], holds := [], check := none, flies := false,
    memTrk := false, ringTrk := false, tag := none, groups := [], release := false, rd := [],
    wr := [], keep := [], gran := false, skew := none, finish := .plain, arr := 0, ocu := 0, jump := none, skip := 1 }

/-- The order of the head faults in R192. -/
def headOrder : List Code :=
  [.fieldRange, .branchRange, .loopDepth, .memAlign, .memWindow, .bufRange, .bufRole, .handleRange,
    .plazaAlign, .plazaRange, .blockAlign, .redLength, .granuleMismatch, .hqInvalid]

def firstHead (l : List Code) : Option Code := headOrder.find? (fun c => l.contains c)

/-! ## Waits that the shared part finds -/

/-- Trackers are the physical engine's (R140). -/
def trackersUsed (p : Plane) (v : Nat) (ring : Bool) : Nat :=
  (p.flights.filter (fun f =>
    homePort p f.veng == homePort p v && (if ring then f.ringTrk else f.memTrk))).length

/-- R187: pending accesses of the same task to the same regions of its own engine. -/
def regionBusy (p : Plane) (e : Env) (rd wr : List (Nat × Nat)) : Bool :=
  p.flights.any (fun f =>
    f.veng == e.v && f.slot == e.s
      && (rd.any (fun r => r.1 == e.v && f.bufWr.contains r)
        || wr.any (fun r => r.1 == e.v && (f.bufWr.contains r || f.bufRd.contains r))))

/-- R95: pending and new accesses of one group that do not proceed together. -/
def groupClash (old new : GAccess) (release : Bool) : Bool :=
  release || old == .ovw || new == .ovw || old != new

def groupBusy (p : Plane) (v : Nat) (gs : List (Nat × GAccess)) (release : Bool) : Bool :=
  p.flights.any (fun f =>
    f.veng == v && f.groups.any (fun o => gs.any (fun n => n.1 == o.1 && groupClash o.2 n.2 release)))

/-- A named group is in memory, or its physical group holds the other virtual engine's (R92, R191). -/
def groupAway (p : Plane) (v : Nat) (gs : List (Nat × GAccess)) : Bool :=
  gs.any (fun g => (getG (getV p v) g.1).spl
    || (hostedOn p (homePort p v)).any (fun w =>
        w != v && (getG (getV p w) g.1).st != .free && !(getG (getV p w) g.1).spl))

/-- VACK has not confirmed the higher voltage that VREQ asks for (R318). -/
def riseWaits (p : Plane) : Bool := p.pins.changing && decide (p.pins.vreqOld < p.pins.vreq)

/-- The lowest limit of R316; a rise waits for its voltage (R318). -/
def regionLevel (p : Plane) (r : Nat) : Nat :=
  let x := getRg p r
  min (min (if x.capped then 3 else 15) (if riseWaits p then x.hold else 15)) (min (if p.pins.therm then 3 else 15) x.level)

/-- The pacing bucket is empty; level 15 never limits (R315; log 46: DEDUCED, unsafe). -/
def paceHeld (p : Plane) (v : Nat) (steps : Nat) : Bool :=
  let r := homePort p v / 8
  decide (0 < steps) && decide (regionLevel p r < 15) && decide ((getRg p r).tokens ≤ 0)

def rdRegions (pl : Plan) : List (Nat × Nat) := pl.rd.flatMap bufRegions
def wrRegions (pl : Plan) : List (Nat × Nat) := pl.wr.flatMap bufRegions

/-! ## Held buffers (R250) -/

/-- The output's tensor is staged in held buffers. -/
def outHeld (p : Plane) (i cid : Nat) : Bool :=
  ((ctxGet p cid).map ctxSealed).getD false && (getP p i).policy.hold

/-- Bytes of the flight still wait for a held buffer. -/
def heldBack (p : Plane) (f : Flight) : Bool :=
  (epGet (getP p f.part) f.epoch).heldWait.any (fun h => h.1 == f.id)

/-- A writer waits while HOLD_HQ is empty, and the task behind it waits with it. -/
def heldWriter (p : Plane) (e : Env) (pl : Plan) : Bool :=
  (pl.outs.any (outHeld p e.pi) && (getQ p (getP p e.pi).policy.holdHq).items.isEmpty)
    || p.flights.any (fun f => f.veng == e.v && f.slot == e.s && heldBack p f)

/-- Contexts to be paged in before the instruction can issue (R78). -/
def ctxsMissing (p : Plane) (pl : Plan) : List Nat :=
  (pl.ctxs.filter (fun c => ctxSt p c.1 == .missing)).map Prod.fst

/-- Every stall counter whose wait holds the instruction. -/
def holdsOf (p : Plane) (e : Env) (pl : Plan) : List Nat :=
  pl.holds
    ++ (if pl.memTrk && decide (8 ≤ trackersUsed p e.v false) then [1] else [])
    ++ (if pl.ringTrk && decide (4 ≤ trackersUsed p e.v true) then [2] else [])
    ++ (if regionBusy p e (rdRegions pl) (wrRegions pl) || groupBusy p e.v pl.groups pl.release
          || groupAway p e.v pl.groups then [3] else [])
    ++ (if heldWriter p e pl then [4] else [])
    ++ (if ctxsMissing p pl = [] then [] else [8])
    ++ (if paceHeld p e.v (pl.arr + pl.ocu) then [11] else [])

/-- The counter that takes the step (R366). -/
def holdFirst (l : List Nat) : Option Nat :=
  if l.contains 11 then some 11
  else
    match l with
    | [] => none
    | k :: t => some (t.foldl min k)

/-! ## The issue check on contexts (R192, R199, R370) -/

/-- The context ID that a record holds: the one whose check failed; 0 when it is none singly (R332). -/
def ctxImage (l : List Nat) : List Byte :=
  match l with
  | [] => []
  | c :: t => if t.all (fun d => d == c) then toLE 4 c else []

def ctxFault (p : Plane) (e : Env) (pl : Plan) : Option (Code × List Byte) :=
  let lost := (pl.ctxs.filter (fun c => (ctxAs p c.1 c.2).isNone)).map Prod.fst
  let away := (pl.ctxs.filter (fun c => ((ctxGet p c.1).map ctxPart) != some e.pi)).map Prod.fst
  if lost != [] then some (.ctxPageBad, ctxImage lost)
  else if away != [] then some (.partViolation, ctxImage away)
  else none

/-! ## Program flow (R184) -/

/-- At the end of a loop's body the loop runs again, or ends. -/
def loopWrap : List LoopE → Nat → List LoopE × Nat
  | [], pc => ([], pc)
  | l :: t, pc =>
    if pc = l.last + 1 then
      if 0 < l.left then ({ l with left := l.left - 1 } :: t, l.start) else loopWrap t pc
    else (l :: t, pc)

def pcTo (t : TaskRegs) (pc : Nat) : TaskRegs :=
  let r := loopWrap t.loops pc
  { t with loops := r.1, pc := r.2 }

def inBody (pc : Nat) (l : LoopE) : Bool := decide (l.start ≤ pc) && decide (pc ≤ l.last)

/-- A taken branch ends the loops whose body it leaves, and those inside them. -/
def jumpTo (t : TaskRegs) (pc : Nat) : TaskRegs :=
  { t with loops := (t.loops.reverse.takeWhile (inBody pc)).reverse, pc := pc }

/-- (log 43: DESIGN CHOICE, safe) -/
def advance (p : Plane) (e : Env) (pl : Plan) : Plane :=
  modT p e.v e.s (fun t =>
    if t.st = .active then
      { t with
        stallRec := false
        regs := match pl.jump with
          | some pc => jumpTo t.regs pc
          | none => pcTo t.regs (t.regs.pc + pl.skip) }
    else t)

/-! ## Faults (R193) -/

/-- A stopping fault: no effect, STOPPED at the instruction, the record, the STOPPED cause. -/
def stopFault (p : Plane) (e : Env) (c : Code) (w : BitVec 128) (obj : List Byte) : Plane :=
  let p := modT p e.v e.s (fun t => { t with st := .stopped })
  raise p c e.src (some e.pi) (dInstr e.v e.s e.t.regs.pc w obj) [.pn e.pi 3]

/-- A failed page-in stays marked only until its requester has faulted. -/
def clearBad (p : Plane) (pl : Plan) : Plane :=
  { p with gaz := { p.gaz with bad := p.gaz.bad.filter (fun k => !pl.ctxs.any (fun c => c.1 == k)) } }

/-- SKEW_CNT of the update context that a STEP_SKEW names (R197). -/
def countSkew (p : Plane) (e : Env) (pl : Plan) (c : Code) : Plane :=
  match pl.skew with
  | some id => if c = .stepSkew then ctxUpd p e.pi e.ep id (fun x => ctxCount x 671 640 1) else p
  | none => p

/-! ## Issue -/

/-- The sequencer's own marks of an issue (R164, R191, R234, R365). -/
def noteIssue (p : Plane) (e : Env) : Plane :=
  let p := stallV p e.v 0 1
  let p := ((hostedOn p e.src).filter (fun w => w != e.v)).foldl (fun p w => stallV p w 10 1) p
  let p := modV p e.v (fun x => { x with rr := spPut x.rr e.t.regs.prio e.s })
  let p := modPhys p e.src (fun x => { x with cur := e.v })
  modEp p e.pi e.ep (fun x => { x with issued := true })

/-- Tokens and activity of the array and the OCU: one token for each step. The steps that an empty bucket delays
are a debt, which refills repay (R315; log 46: DEDUCED, unsafe). -/
def noteUnits (p : Plane) (e : Env) (pl : Plan) : Plane :=
  let r := e.src / 8
  let p := stallV (stallV p e.v 13 pl.arr) e.v 14 pl.ocu
  modRg p r (fun x => { x with
    tokens := x.tokens - ((pl.arr + pl.ocu : Nat) : Int)
    activity := x.activity + pl.arr + pl.ocu })

/-- Units that hosted buffers move (R159, R367). -/
def noteBacking (p : Plane) (pl : Plan) : Plane :=
  (pl.rd ++ pl.wr).foldl (fun p b =>
    if isHosted p b.veng then stallR p (homePort p b.veng / 8) 8 b.span else p) p

/-- The instruction joins those in flight; the answer is its identity. -/
def launch (p : Plane) (e : Env) (pl : Plan) : Plane :=
  let f : Flight :=
    { id := p.nextId, veng := e.v, slot := e.s, part := e.pi, epoch := e.ep, tag := pl.tag,
      memTrk := pl.memTrk, ringTrk := pl.ringTrk, groups := pl.groups, bufRd := rdRegions pl ++ pl.keep,
      bufWr := wrRegions pl, ctxs := pl.ctxs.map Prod.fst, failed := false, bad := [], finish := pl.finish }
  { p with flights := p.flights ++ [f], nextId := p.nextId + 1 }

def guardOff (t : TaskRegs) (i : Issue) : Bool := i.gen && !(xor (pGet t i.gp) i.gneg)

/-- The PC moves on, unless the effect itself made the partition roll back. -/
def advanceAfter (p q : Plane) (e : Env) (pl : Plan) : Plane :=
  if (getP q e.pi).rollbacks = (getP p e.pi).rollbacks ∧ (getP q e.pi).rollback.isNone then advance q e pl
  else q

/-- The issue step before the effect: marks, contexts touched, the instruction in flight. -/
def begun (p : Plane) (e : Env) (pl : Plan) : Plane :=
  let p := noteBacking (noteUnits (noteIssue p e) e pl) pl
  let p := pl.ctxs.foldl (fun p c => ctxTouch p c.1) p
  if pl.flies then launch p e pl else p

/-- The instruction takes effect. -/
def issued (p : Plane) (e : Env) (pl : Plan) (run : Plane → Env → Nat → Plane) : Plane :=
  advanceAfter (begun p e pl) (run (begun p e pl) e p.nextId) e pl

end Sys2Proof.Machine
end

