-- ==== Sys2Proof/Machine/Packets.lean ====
section
/-! DEFINITION. Group slots and peers (R214 to R217), packets (R223, R224), sending on the collective
ports (R303), acknowledgement of what was sent (R230). -/

namespace Sys2Proof.Machine

/-! ## Group descriptor fields (R214) -/

abbrev GSlot := BitVec 256

def gGgid (g : GSlot) : Nat := fld g 23 0
def gParent (g : GSlot) : Nat := fld g 56 53
def gPv (g : GSlot) : Bool := bit g.toNat 57
def gLevel (g : GSlot) : Nat := fld g 59 58
def gEn (g : GSlot) : Bool := bit g.toNat 60
def gPart (g : GSlot) : Nat := fld g 63 61
def gRank (g : GSlot) : Nat := fld g 86 67
def gSelfPos (g : GSlot) : Nat := fld g 98 87
def gNactive (g : GSlot) : Nat := fld g 111 99
def gMepoch (g : GSlot) : Nat := fld g 159 112

/-- Add to a 32-bit saturating field of a 256-bit image. -/
def satFld (g : BitVec 256) (hi lo n : Nat) : BitVec 256 := setFld g hi lo (sat32 (fld g hi lo) n)

def modSlot (p : Plane) (g : Nat) (f : GSlot → GSlot) : Plane := setSlot p g (f (getSlot p g))

def addBad (p : Plane) (g : Nat) : Plane := modSlot p g (fun x => satFld x 191 160 1)
def addNonmem (p : Plane) (g : Nat) : Plane := modSlot p g (fun x => satFld x 223 192 1)
def addStale (p : Plane) (g : Nat) : Plane := modSlot p g (fun x => satFld x 255 224 1)

/-! ## Peer entries (R215) -/

def peerRank (e : BitVec 256) : Nat := fld e 19 0
def peerGidx (e : BitVec 256) : Nat := fld e 31 20
def peerState (e : BitVec 256) : Nat := fld e 33 32
def peerNext (e : BitVec 256) : Nat := fld e 35 34
def peerNv (e : BitVec 256) : Bool := bit e.toNat 36
def peerRoute (e : BitVec 256) : Nat := fld e 127 96

/-- The listed entries of a slot as (index, entry). -/
def peersOf (p : Plane) (g : Nat) : List (Nat × BitVec 256) :=
  (p.peers.filter (fun k => k.1 / 4096 == g)).map (fun k => (k.1 % 4096, k.2))

/-- The order of R216. -/
def peerKey (lv : Nat) (e : BitVec 256) : Nat := if lv = 0 then peerRank e else peerGidx e

def insertPeer (lv : Nat) (e : Nat × BitVec 256) : List (Nat × BitVec 256) → List (Nat × BitVec 256)
  | [] => [e]
  | x :: t => if peerKey lv e.2 < peerKey lv x.2 then e :: x :: t else x :: insertPeer lv e t

/-- ACTIVE members in the order of R216. -/
def actives (p : Plane) (g : Nat) : List (Nat × BitVec 256) :=
  ((peersOf p g).filter (fun e => peerState e.2 == 2)).foldl
    (fun l e => insertPeer (gLevel (getSlot p g)) e l) []

def activeRanks (p : Plane) (g : Nat) : List Nat := (actives p g).map (fun e => peerRank e.2)

def peerOfRank (p : Plane) (g r : Nat) : Option (Nat × BitVec 256) :=
  (peersOf p g).find? (fun e => peerRank e.2 == r && peerState e.2 != 0)

def isActiveRank (p : Plane) (g r : Nat) : Bool := (activeRanks p g).contains r

/-- The aggregator of a group: its ACTIVE member at position 0 (R245). -/
def aggregator (p : Plane) (g : Nat) : Option Nat := (activeRanks p g).head?

def selfRank (p : Plane) (g : Nat) : Nat := gRank (getSlot p g)

/-- NACTIVE and SELF_POS after a change of membership (R217). -/
def recount (p : Plane) (g : Nat) : Plane :=
  let rs := activeRanks p g
  let me := selfRank p g
  let pos := if rs.contains me then (rs.takeWhile (fun r => r != me)).length else 0xFFF
  modSlot p g (fun x => setFld (setFld x 111 99 rs.length) 98 87 pos)

def modPeer (p : Plane) (g i : Nat) (f : BitVec 256 → BitVec 256) : Plane := setPeer p g i (f (getPeer p g i))

/-- A packet of a peer is discarded by the hub. -/
def addDisc (p : Plane) (g r : Nat) : Plane :=
  match peerOfRank p g r with
  | some e => modPeer p g e.1 (fun x => satFld x 255 224 1)
  | none => p

/-- A packet of a peer has arrived. -/
def addRx (p : Plane) (g r : Nat) : Plane :=
  match peerOfRank p g r with
  | some e => modPeer p g e.1 (fun x => setFld x 191 160 (fld x 191 160 + 1))
  | none => p

def addPeerBad (p : Plane) (g r : Nat) : Plane :=
  match peerOfRank p g r with
  | some e => modPeer p g e.1 (fun x => satFld x 223 192 1)
  | none => p

/-- Enabled slots of a partition. -/
def slotsOf (p : Plane) (i : Nat) : List Nat :=
  upTo 16 (fun g => gEn (getSlot p g) && gPart (getSlot p g) == i)

/-- The slot and its enclosing groups, from the inside out (R222, R226). -/
def parentChain (p : Plane) (g : Nat) : List Nat :=
  let s := getSlot p g
  if gPv s then
    let h := gParent s
    if gPv (getSlot p h) then [g, h, gParent (getSlot p h)] else [g, h]
  else [g]

/-! ## Header bytes (R223) -/

def hdrNat (k : Packet) : Nat :=
  k.ver.toNat + k.ptype.toNat * 2 ^ 8 + k.last.toNat * 2 ^ 12 + k.outcome.toNat * 2 ^ 13
    + k.fmt.toNat * 2 ^ 16 + k.ggid.toNat * 2 ^ 24 + k.epoch.toNat * 2 ^ 48 + k.globalId.toNat * 2 ^ 96
    + k.offset.toNat * 2 ^ 128 + k.srcRank.toNat * 2 ^ 164 + k.dstRank.toNat * 2 ^ 184
    + k.f.toNat * 2 ^ 204 + k.count.toNat * 2 ^ 224 + k.plen.toNat * 2 ^ 241 + k.omaxe.toNat * 2 ^ 256
    + k.cid.toNat * 2 ^ 272 + k.digest.toNat * 2 ^ 288

/-- CRC-32C of header bytes 0 to 59. -/
def hdrCrc (k : Packet) : Nat := crc32c (toLE 60 (hdrNat k))

def sealHdr (k : Packet) : Packet := { k with hcrc := BitVec.ofNat 32 (hdrCrc k) }

def pktBytes (k : Packet) : List Byte :=
  toLE 60 (hdrNat k) ++ toLE 4 k.hcrc.toNat ++ k.payload

def fmtCode (f : Fmt) : Nat :=
  ((List.range 32).find? (fun c => fmtOfCode c == some f)).getD 0

/-! ## Digests of payloads (R224) -/

/-- The 32-bit words of a payload. -/
def words32 (bs : List Byte) : List Nat := (chunksOf 4 bs.length bs).map leNat

def digestWords (key : U64) (gid : Nat) : Nat → List Nat → Nat
  | _, [] => 0
  | k, w :: t => digestAdd (digestTerm key gid k (w : Int)) (digestWords key gid (k + 1) t)

/-- The element format of a tensor format that has codes. -/
def elemOf (f : Fmt) : Elem := (fmtElem f).getD .fp32

/-- Entries of an XAF-136 line. -/
def exactLine (n : Nat) (bs : List Byte) : List Acc := (chunksOf 24 n bs).map (fun b => (xaf136Read b).1)

/-- Digest of a line image from logical index `k0`: of the stored codes (R132), or of X in an exact line (R131). -/
def digestLine (f : Fmt) (key : U64) (gid k0 n : Nat) (bs : List Byte) : Nat :=
  let k := elemOf f
  let b := (n + 31) / 32
  let e := blockElemBytes k
  let codesAt (j : Nat) (l : List Byte) : Nat := digestWords key gid (k0 + 32 * j)
    (unpackCodes (elemBits k) (min 32 (n - 32 * j)) l)
  if f = .xaf136 then digestAccs key gid k0 (exactLine n bs)
  else if fmtIsNx f then
    ((chunksOf (nxRecordBytes k) b bs).zipIdx).foldl (fun d r =>
      let i0 := k0 + 32 * r.2
      let sc := ((r.1.drop e).headD 0).toNat
      let sh := ((r.1.drop (e + 1)).headD 0).toNat
      digestAdd (digestAdd (digestAdd d (codesAt r.2 r.1))
        (digestTerm key gid (2 ^ 36 + i0) (sc : Int))) (digestTerm key gid (2 ^ 37 + i0) (sh : Int))) 0
  else if fmtIsMx f then
    (((chunksOf e b (bs.take (b * e))).zip ((bs.drop (b * e)).take b)).zipIdx).foldl (fun d r =>
      digestAdd (digestAdd d (codesAt r.2 r.1.1))
        (digestTerm key gid (2 ^ 36 + k0 + 32 * r.2) (r.1.2.toNat : Int))) 0
  else digestWords key gid k0 (unpackCodes (elemBits k) n bs)

def dkeyAt (p : Plane) (i slot : Nat) : U64 := spGetD (getP p i).settings.dkeys slot 0#64
def srkeyAt (p : Plane) (i slot : Nat) : U64 := spGetD (getP p i).settings.srkeys slot 0#64

/-! ## Sending (R303) -/

/-- Collective ports of a partition in service. -/
def portsOf (p : Plane) (i : Nat) : List Nat :=
  upTo 16 (fun n => !(getRg p (n / 2)).quarantined && partOfRegion p (n / 2) == some i)

def portFor (p : Plane) (i route : Nat) : Nat :=
  let n := route / 2 ^ 28
  let l := portsOf p i
  if l.contains n then n else l.headD n

/-- An ACK, by the type in its header. -/
def isAckPkt (x : TxPkt) : Bool := (x.bytes.getD 1 0).toNat % 16 == 8

/-- Some of its flits have left. -/
def txBegun (x : TxPkt) : Bool := decide (x.flits < (x.bytes.length + 63) / 64)

/-- Flits of packets that may leave do so while there is credit. -/
def drainQ (ok : TxPkt → Bool) : Nat → List TxPkt → Nat × List TxPkt × Nat
  | cr, [] => (cr, [], 0)
  | cr, x :: t =>
    if !ok x then
      let r := drainQ ok cr t
      (r.1, x :: r.2.1, r.2.2)
    else if x.flits ≤ cr then
      let r := drainQ ok (cr - x.flits) t
      (r.1, r.2.1, r.2.2 + x.flits)
    else (0, { x with flits := x.flits - cr } :: t, cr)

/-- The flits of one packet are contiguous: a packet that has begun goes first (R303). While QUIESCE_N is
low no packet but an ACK is begun (R308). -/
def drainTx (p : Plane) (n : Nat) : Plane :=
  let c := getCP p n
  let r := drainQ (fun x => p.pins.quiesceN || txBegun x || isAckPkt x) c.credits c.txq
  stallR (setCP p n { c with
    credits := r.1
    txq := r.2.1.filter txBegun ++ r.2.1.filter (fun x => !txBegun x)
    stallRec := c.stallRec && r.2.2 == 0 }) (n / 2) 4 r.2.2

/-- Where a replay log keeps what the referee's hub would have sent: the sealed header (log 22: DESIGN CHOICE, unsafe). -/
def logPacket (p : Plane) (i : Nat) (k : Packet) : Plane :=
  match (getP p i).replay with
  | none => p
  | some r =>
    let p := memStore p (r.log + r.logLen) (pktBytes k |>.take 64)
    modP p i (fun x => { x with replay := some { r with logLen := r.logLen + 64 } })

/-- Hand a packet to its port, or to the log of a referee. -/
def transmit (p : Plane) (i g : Nat) (peer : Nat × BitVec 256) (k : Packet) : Plane :=
  let k := sealHdr k
  if (getP p i).replay.isSome then logPacket p i k
  else
    let route := peerRoute peer.2
    let n := portFor p i route
    let c := getCP p n
    let p := setCP p n { c with
      txq := c.txq ++ [⟨route % 2 ^ 28, 1 + (k.payload.length + 63) / 64, pktBytes k⟩] }
    let p := modPeer p g peer.1 (fun x => setFld x 159 128 (fld x 159 128 + 1))
    drainTx (stallP p 5 1) n

/-- A packet that awaits its ACK. A referee's counts as acknowledged. -/
def sendPkt (p : Plane) (i g : Nat) (coll : Option Nat) (k : Packet) : Plane :=
  match peerOfRank p g k.dstRank.toNat with
  | none => p
  | some peer =>
    let p := transmit p i g peer k
    if (getP p i).replay.isSome then p
    else
      let s : Sent := ⟨p.nextId, coll, i, g, k.epoch.toNat, k.cid.toNat, k.offset.toNat, k.count.toNat,
        k.dstRank.toNat, k.ptype.toNat⟩
      { p with sent := p.sent ++ [s], nextId := p.nextId + 1 }

/-- The ACK of a packet (R230). -/
def ackOf (k : Packet) (out : Nat) : Packet :=
  { k with
    hcrc := 0, digest := 0, omaxe := 0, plen := 0, f := 0, dstRank := k.srcRank, srcRank := k.dstRank,
    globalId := 0, fmt := 0, outcome := BitVec.ofNat 3 out, last := false, ptype := 8, ver := 1,
    payload := [] }

/-- An ACK to a rank that its slot does not list, or of no slot: the entry of that rank in another slot of the partition
gives the route; where there is none the ACK goes out on port `n` with a route that is open. (log 92: DESIGN CHOICE,
unsafe) -/
def ackStray (p : Plane) (i n : Nat) (k : Packet) (out : Nat) : Plane :=
  match (slotsOf p i).findSome? (fun g => (peerOfRank p g k.srcRank.toNat).map (fun e => (g, e))) with
  | some x => transmit p i x.1 x.2 (ackOf k out)
  | none =>
    let c := getCP p n
    let a := sealHdr (ackOf k out)
    let p := setCP p n { c with
      txq := c.txq ++ [⟨(Config.freeWord p.freeCtr).toNat % 2 ^ 28, 1, pktBytes a⟩] }
    drainTx (stallP { p with freeCtr := p.freeCtr + 1 } 5 1) n

/-- The image of a referee's packets has no live sender to answer. -/
def sendAck (p : Plane) (i g : Nat) (k : Packet) (out : Nat) : Plane :=
  if (getP p i).replay.isSome then p
  else
    match peerOfRank p g k.srcRank.toNat with
    | none => ackStray p i ((portsOf p i).headD 0) k out
    | some peer => transmit p i g peer (ackOf k out)

/-- A packet of a slot to a rank, before its payload's own fields. -/
def mkPkt (p : Plane) (g dst ptype epoch cid off count : Nat) (last : Bool) (payload : List Byte) : Packet :=
  { hcrc := 0, digest := 0, cid := BitVec.ofNat 16 cid, omaxe := 0, plen := BitVec.ofNat 15 payload.length,
    count := BitVec.ofNat 17 count, f := 0, dstRank := BitVec.ofNat 20 dst,
    srcRank := BitVec.ofNat 20 (selfRank p g), offset := BitVec.ofNat 36 off, globalId := 0,
    epoch := BitVec.ofNat 48 epoch, ggid := BitVec.ofNat 24 (gGgid (getSlot p g)), fmt := 0, outcome := 0,
    last := last, ptype := BitVec.ofNat 4 ptype, ver := 1, payload := payload }

/-- A packet of 32-bit words without a context: key slot 0 of the partition, gid 0 (R224). -/
def wordPkt (p : Plane) (i g dst ptype epoch cid off count : Nat) (last : Bool) (payload : List Byte) :
    Packet :=
  { mkPkt p g dst ptype epoch cid off count last payload with
    digest := BitVec.ofNat 64 (digestWords (dkeyAt p i 0) 0 0 (words32 payload)) }

/-- Pieces of at most 16 KiB of a word list with items of `sz` bytes, to one member. -/
def sendWords (p : Plane) (i g dst ptype epoch cid sz : Nat) (coll : Option Nat) (bs : List Byte) : Plane :=
  let per := 16384 / sz
  let cs := chunksOf (per * sz) (bs.length / (per * sz) + 1) bs
  (cs.zipIdx).foldl (fun p c =>
    sendPkt p i g coll
      (wordPkt p i g dst ptype epoch cid (c.2 * per) (c.1.length / sz) (c.2 + 1 == cs.length) c.1)) p

/-- The other ACTIVE members. -/
def others (p : Plane) (g : Nat) : List Nat := (activeRanks p g).filter (fun r => r != selfRank p g)

/-- Unacknowledged packets of a partition whose destination is not ABSENT (R254). -/
def unacked (p : Plane) (i : Nat) : Bool :=
  p.sent.any (fun s => s.part == i && (peerOfRank p s.gslot s.rank).isSome)

end Sys2Proof.Machine
end

