-- ==== Sys2Proof/Machine/Mailbox.lean ====
section
/-! DEFINITION. Mailbox slots and rings (R272 to R275): the next request, responses. -/

namespace Sys2Proof.Machine

/-- A request slot as firmware reads it (R272). -/
structure Req where
  verb : Nat
  inTxn : Bool
  reqid : Nat
  txn : Nat
  /-- W0 to W6. -/
  w : List Nat
deriving DecidableEq, Repr

def Req.arg (q : Req) (n : Nat) : Nat := q.w.getD n 0

/-- Offset of a request slot, and of a response slot, in mailbox memory. -/
def reqSlot (m i : Nat) : Nat := 0x4000 * m + 64 * (i % 128)
def rspSlot (m i : Nat) : Nat := 0x4000 * m + 0x2000 + 64 * (i % 128)

def reqOfWords (h : Nat) (w : List Nat) : Req :=
  ⟨bits h 7 0, bit h 8, bits h 31 16, bits h 47 32, w⟩

/-- A 64 B slot as header and seven words. -/
def slotWords (m : Mem) (a : Nat) : Nat × List Nat :=
  (memNat 0 m a 8, (List.range 7).map (fun n => memNat 0 m (a + 8 + 8 * n) 8))

/-- The mailboxes serve requests: READY, and HALTED for the black box (R296). -/
def mbxServed (p : Plane) : Bool := p.regs.state == .ready || p.regs.state == .halted

/-- The response ring holds 128 responses that the host has not consumed (R274). -/
def rspFull (x : Mbx) : Bool := decide (128 ≤ (x.rspTail - x.rspHead).toNat)

/-- The verbs that need an engine (R308). -/
def engineVerb (q : Req) : Bool :=
  [0x21, 0x33, 0x40, 0x41, 0x42].contains q.verb || (q.verb == 0x32 && bits (q.arg 0) 2 0 == 4)

/-- Requests of a session that ends are answered first (R278). -/
def mbxClosed (x : Mbx) : Bool := (x.closeTail.map (fun t => x.reqHead != t)).getD false

/-- The request of a mailbox that firmware may take: one verb at a time, room for its response, and no engine verb
while QUIESCE_N is low (R274, R275, R308). -/
def mbxReady (p : Plane) (m : Nat) : Option Req :=
  let x := getM p m
  if mbxServed p && x.reqHead != x.reqTail && !rspFull x && x.exec.isNone && !mbxClosed x then
    let s := slotWords p.mbxMem (reqSlot m x.reqHead.toNat)
    (some (reqOfWords s.1 s.2)).filter (fun q => p.pins.quiesceN || !engineVerb q)
  else none

/-- The mailbox whose turn it is: round-robin among those with a request. -/
def mbxTurn (p : Plane) : Option Nat :=
  let ks := spKeys p.mbx
  (ks.filter (fun m => decide (p.mbxNext ≤ m)) ++ ks.filter (fun m => decide (m < p.mbxNext))).find? (fun m =>
    (mbxReady p m).isSome)

/-- The request that firmware takes next, when it is of this mailbox. -/
def peekReq (p : Plane) (m : Nat) : Option Req := if mbxTurn p = some m then mbxReady p m else none

/-- Firmware takes the request: HEAD advances, the acceptance order is stamped (R275). -/
def takeReq (p : Plane) (m : Nat) : Plane :=
  let p := modM p m (fun x => { x with reqHead := x.reqHead + 1 })
  { p with
    order := p.order + 1
    mbxNext := (m + 1) % 64 }

/-- Post a response; the header goes last and carries PHASE (R273). -/
def post (p : Plane) (m verb reqid : Nat) (r : Resp) : Plane :=
  let x := getM p m
  let a := rspSlot m x.rspTail.toNat
  let ph := if bit x.rspTail.toNat 7 then 0 else 2 ^ 63
  let h := verb + reqid * 2 ^ 16 + r.status * 2 ^ 32 + ph
  let body := (List.range 7).flatMap (fun n => toLE 8 (r.v.getD n 0))
  let p := { p with mbxMem := memWrite 0 (memWrite 0 p.mbxMem (a + 8) body) a (toLE 8 h) }
  setM p m { x with rspTail := x.rspTail + 1, rsp := true }

/-- Take a request and answer it at once. -/
def answer (p : Plane) (m : Nat) (q : Req) (r : Resp) : Plane := post (takeReq p m) m q.verb q.reqid r

/-- Take a request that now waits. -/
def holdReq (p : Plane) (m : Nat) (q : Req) (w : Waits) : Plane :=
  modM (takeReq p m) m (fun x => { x with exec := some ⟨q.verb, q.reqid, w, true⟩ })

/-- The verb that a mailbox executes ends. -/
def finish (p : Plane) (m : Nat) (r : Resp) : Plane :=
  match (getM p m).exec with
  | none => p
  | some x =>
    let p := modM p m (fun y => { y with exec := none })
    if x.answer then post p m x.verb x.reqid r else p

def okResp (v : List Nat) : Resp := ⟨0, v⟩
def errResp (st : Nat) : Resp := ⟨st, []⟩

/-- Every mailbox whose verb waits for `w` ends with `r`. -/
def finishWaits (p : Plane) (w : Waits) (r : Resp) : Plane :=
  (spKeys p.mbx).foldl (fun p m =>
    match (getM p m).exec with
    | some x => if x.waits = w then finish p m r else p
    | none => p) p

/-- The record or NVM write of a verb is acknowledged: it answers, or a fence goes on to its moves. -/
def ackVerb (key : Nat) (r : Resp) (p : Plane) : Plane :=
  (spKeys p.mbx).foldl (fun p m =>
    match (getM p m).exec with
    | some x =>
      match x.waits with
      | .nvm k => if k = key then finish p m r else p
      | .fence e k =>
        if k = key then modM p m (fun y => { y with exec := some { x with waits := .moves e (r.v.headD 0) } }) else p
      | _ => p
    | none => p) p

/-- Answer a request that stands before a tail and has not started (R278). -/
def refuseReq (p : Plane) (m : Nat) (tail : BitVec 8) (st : Nat) : Plane :=
  let x := getM p m
  if x.reqHead != tail && !rspFull x then
    let s := slotWords p.mbxMem (reqSlot m x.reqHead.toNat)
    let q := reqOfWords s.1 s.2
    answer p m q (errResp st)
  else p

/-- Answer every request before a tail, as far as the response ring has room (R274). (log 100: DESIGN CHOICE, unsafe) -/
def refuseAll (p : Plane) (m : Nat) (tail : BitVec 8) (st : Nat) : Plane := forN 128 p (fun p _ => refuseReq p m tail st)

/-- Reset a freed mailbox: counters and PHASE (R278 step 6); a doorbell since the end of its session finds no session
(R277). MBX_CTRL, RSP and DB_ERR keep their values. (log 53: DESIGN CHOICE, unsafe) -/
def freeMbx (p : Plane) (m : Nat) : Plane :=
  modM (refuseAll p m (getM p m).reqTail 0x3) m (fun x => { x with
    reqTail := 0
    reqHead := 0
    rspHead := 0
    rspTail := 0
    isOpen := false
    session := 0
    exec := none
    closeTail := none })

end Sys2Proof.Machine
end

