-- ==== Sys2Proof/Machine/Settings.lean ====
section
/-! DEFINITION. Settings: what CTX_DEFINE writes (R283), staged settings, transactions at partition
boundaries and the journal (R256 to R259). -/

namespace Sys2Proof.Machine

/-! ## Writing a context (R283, fields of R70 and R197) -/

def maskOf : List (Nat × Nat) → Nat
  | [] => 0
  | (hi, lo) :: t => (2 ^ (hi + 1) - 2 ^ lo) ||| maskOf t

/-- RW fields whose Reset is a value, as (high bit, low bit, Reset). -/
def convReset : List (Nat × Nat × Nat) :=
  [(18, 18, 0), (20, 20, 0), (137, 128, 0), (139, 138, 0), (141, 140, 0), (144, 144, 0), (145, 145, 0),
    (146, 146, 0), (149, 147, 1), (155, 152, 0), (159, 156, 0), (167, 160, 0), (219, 192, 0),
    (271, 256, 0xFF00), (287, 272, 0xFF00), (303, 288, 0xFF00), (319, 304, 0xFF00), (396, 396, 0),
    (416, 416, 0)]

def updReset : List (Nat × Nat × Nat) := [(18, 18, 0), (479, 448, 1)]

/-- RW fields without a Reset value. -/
def convKeep : List (Nat × Nat) := [(7, 0), (63, 40), (115, 64), (255, 224), (395, 384), (415, 400)]
def updKeep : List (Nat × Nat) := [(63, 40), (503, 480), (527, 504), (551, 528), (575, 552)]

/-- RO fields that a selected word writes, with KERB, whose Reset is the format's default. -/
def convOther : List (Nat × Nat) :=
  [(143, 142), (335, 320), (351, 336), (367, 352), (383, 368), (511, 448), (767, 512)]
def updOther : List (Nat × Nat) := [(799, 576)]

/-- Words that a new context must select. -/
def convNeed : List Nat := [0, 1, 2, 3, 7, 12]
def updNeed : List Nat := [1, 15, 16, 17]

def resetMask (l : List (Nat × Nat × Nat)) : Nat := maskOf (l.map (fun f => (f.1, f.2.1)))
def resetVal (l : List (Nat × Nat × Nat)) : Nat := l.foldl (fun n f => n + f.2.2 * 2 ^ f.2.1) 0

/-- RO fields of a new conversion context that do not start at 0. -/
def convRo : Nat := resetVal [(335, 320, 0xFF00), (351, 336, 0xFF00), (367, 352, 0xFF00), (383, 368, 0xFF00)]

def selMask (supply : BitVec 32) : Nat :=
  (List.range 30).foldl (fun n i => if bit supply.toNat i then n + (2 ^ 32 - 1) * 2 ^ (32 * i) else n) 0

def needOk (upd : Bool) (supply : BitVec 32) : Bool :=
  (if upd then updNeed else convNeed).all (fun i => bit supply.toNat i)

/-- The image a definition gives; `old` is the defined context of the same kind, if any. RAN and RAN_TAG stay with it
(R74, R283); MAXE_TAG is 0 (R70). -/
def defImage (id : Nat) (upd : Bool) (supply : BitVec 32) (img : Cx) (old : Option Cx) (part session : Nat) :
    Cx :=
  let rst := if upd then updReset else convReset
  let used := resetMask rst ||| maskOf (if upd then updKeep else convKeep)
    ||| maskOf (if upd then updOther else convOther)
  let base : Nat := match old with
    | some c => (c.toNat - (c.toNat &&& resetMask rst)) ||| resetVal rst
    | none => if upd then resetVal rst else resetVal rst + convRo
  let sel := selMask supply
  let n := (base - (base &&& sel)) ||| (img.toNat &&& sel)
  let c : Cx := BitVec.ofNat 1024 (n &&& used)
  let c := if upd || bit supply.toNat 4 then c
    else setFld c 143 142 (((fmtOfCode (fld c 7 0)).map kerbDefault).getD 0)
  let c := setFld (setFld c 831 808 id) 29 24 session
  let c := setFld (setFld c 23 21 part) 16 16 (if upd then 1 else 0)
  if upd then
    let o := old.getD 0
    setFld (setFld c 416 416 (fld o 416 416)) 399 352 (fld o 399 352)
  else setFld c 19 19 (match old with
    | some o => if ctxVer o then 1 else 0
    | none => 0)

/-- Free a context's way and spoil its backing copy (R278 step 5). -/
def releaseCtx (p : Plane) (id : Nat) : Plane :=
  let c := (ctxAny p id).getD 0
  let b := (ctxBytes c).take 120
  let crc := (2 ^ 32 - 1) - crc32c b
  let p := memStore p (backAddr p id) (b ++ toLE 4 crc ++ zeros 4)
  { p with gaz := { p.gaz with
      ways := spDel p.gaz.ways id
      lru := p.gaz.lru.erase id
      paging := p.gaz.paging.erase id
      defined := p.gaz.defined.erase id } }

/-- Keep every Milestone's account of the context in step with a definition (log 23: DESIGN CHOICE, unsafe). -/
def snapCtx (p : Plane) (i id : Nat) (c : Option Cx) : Plane :=
  modP p i (fun x => { x with snaps := x.snaps.map (fun s =>
    { s with
      ctxs := match c with
        | some v => spPut s.ctxs id v
        | none => spDel s.ctxs id }) })

/-- Write a context: the backing copy with a fresh CRC, and its way when it is resident or pinned. -/
def writeCtx (p : Plane) (id : Nat) (c : Cx) : Plane :=
  let p := memStore p (backAddr p id) (ctxSealed128 c)
  let p := { p with gaz := { p.gaz with
    defined := addNew p.gaz.defined id
    bad := p.gaz.bad.erase id } }
  if (ctxGet p id).isSome then ctxPut p id c
  else if ctxPin c then (ctxInstall p id c).getD p
  else p

/-- The defined context of an ID. -/
def definedCtx (p : Plane) (id : Nat) : Option Cx :=
  if p.gaz.defined.contains id then ctxAny p id else none

/-- (log 30: DEDUCED, safe) -/
def defineCtx (p : Plane) (i id : Nat) (upd : Bool) (supply : BitVec 32) (img : Cx) (session : Nat) :
    Plane :=
  let old := definedCtx p id
  let same := old.filter (fun c => ctxIsUpd c == upd)
  let p := if old.isSome && same.isNone then releaseCtx p id else p
  let p := keptMod p i 0 id (fun c => defImage id upd supply img (if same.isSome then some c else none) i session)
  writeCtx p id (defImage id upd supply img same i session)

/-! ## Staged settings (R256) -/

/-- In host-assisted mode of the pacing duty the duty level of every region is PACE_IN (R316). -/
def paceLevels (p : Plane) : Plane :=
  if bit p.duties.toNat 7 then forN 8 p (fun p r => modRg p r (fun x => { x with level := p.pins.paceIn.toNat }))
  else p

def applyStaged (i : Nat) (p : Plane) (s : Staged) : Plane :=
  match s with
  | .ctx id upd supply img session => defineCtx p i id upd supply img session
  | .release id => releaseCtx p id
  | .act slot ws => modP p i (fun x => { x with settings := { x.settings with
      act := spPut x.settings.act slot ws } })
  | .scale idx v =>
    if idx = 0 then p
    else modP p i (fun x => { x with settings := { x.settings with
      scale := spSet one32 x.settings.scale idx v } })
  | .row idx ws => { p with coef := spPut p.coef idx ws }
  | .duty code host =>
    if 6 ≤ code ∧ code ≤ 9 then
      paceLevels { p with duties := setFld p.duties code code (if host then 1 else 0) }
    else modP p i (fun x => { x with settings := { x.settings with
      duties := setFld x.settings.duties code code (if host then 1 else 0) } })
  | .key sr slot k =>
    modP p i (fun x => { x with settings :=
      if sr then { x.settings with srkeys := spSet 0#64 x.settings.srkeys slot k }
      else { x.settings with dkeys := spSet 0#64 x.settings.dkeys slot k } })

/-- Scale-table entry; entry 0 and unwritten entries read 1.0 (R56). -/
def scaleAt (p : Plane) (i idx : Nat) : U32 := spGetD (getP p i).settings.scale idx one32

/-- Word `w` of an activation slot's image; slots 0 to 4 start with the default tables (R279). -/
def actAt (p : Plane) (i slot w : Nat) : U32 :=
  match spGet (getP p i).settings.act slot with
  | some ws => ws.getD w 0#32
  | none => if slot < 5 then Config.defaultActWord slot w else 0#32

/-- Word of a coefficient row of a partition, counted from the partition's first row (R205). -/
def coefAt (p : Plane) (i row w : Nat) : U32 :=
  ((spGet p.coef ((getP p i).coefFirst + row)).getD []).getD w 0#32

/-! ## Transactions at partition boundaries (R257 to R259) -/

/-- Transactions in the order of their acceptance. -/
def insertTxn (x : Nat × Txn) : List (Nat × Txn) → List (Nat × Txn)
  | [] => [x]
  | y :: t =>
    if ((x.2.commit.map TxnCommit.order).getD 0) < ((y.2.commit.map TxnCommit.order).getD 0) then x :: y :: t
    else y :: insertTxn x t

def isPlaneDuty (s : Staged) : Bool :=
  match s with
  | .duty c _ => decide (6 ≤ c) && decide (c ≤ 9)
  | _ => false

/-- Apply a transaction, note it in the journal, answer its TXN_COMMIT. -/
def switchTxn (i epoch ordinal first : Nat) (p : Plane) (x : Nat × Txn) : Plane :=
  let staged := x.2.staged.filter (fun s => !isPlaneDuty s)
  let p := staged.foldl (applyStaged i) p
  let p := { p with txns := spDel p.txns x.1 }
  let p := modP p i (fun y => { y with journal := y.journal ++ [⟨epoch, ordinal, staged, true⟩] })
  finishWaits p (.txnSwitch x.1) (okResp [epochNo first])

/-- The entry waits for this point of the replay. -/
def jDue (epoch ordinal : Nat) (j : JEntry) : Bool := j.epoch == epoch && j.ordinal == ordinal && !j.applied

/-- Journal entries of a replay that belong to this point (R259). -/
def replayJournal (p : Plane) (i epoch ordinal : Nat) : Plane :=
  let p := ((getP p i).journal.filter (jDue epoch ordinal)).foldl (fun p j => j.staged.foldl (applyStaged i) p) p
  modP p i (fun x => { x with
    journal := x.journal.map (fun j => if jDue epoch ordinal j then { j with applied := true } else j) })

/-- What switched at once after the close of epoch `n` and before the release of its seal Crossing is in effect at its
Milestone, so it belongs to that release (R258, R259). -/
def closeJournal (p : Plane) (i n ordinal : Nat) : Plane :=
  modP p i (fun x => { x with
    journal := x.journal.map (fun j =>
      if j.epoch = n + 1 ∧ j.ordinal = 0 ∧ j.applied = true then { j with epoch := n, ordinal := ordinal } else j) })

/-- Accepted transactions of the partition that switch here. -/
def switching (p : Plane) (i : Nat) (sealOf : Option Nat) : List (Nat × Txn) :=
  (p.txns.filter (fun t => t.2.part == i && (match t.2.commit with
    | none => false
    | some c =>
      match c.atEpoch with
      | none => true
      | some a => sealOf.map (· + 1) == some a))).foldl (fun l t => insertTxn t l) []

/-- A partition boundary in epoch `n`: `seal` at the release of the seal Crossing. -/
def boundary (p : Plane) (i n : Nat) (sealed : Bool) : Plane :=
  let k := (epGet (getP p i) n).ordinal + 1
  let p := modEp p i n (fun e => { e with ordinal := k })
  let p := replayJournal (if sealed then closeJournal p i n k else p) i n k
  let first := if sealed then n + 1 else n
  let p := (switching p i (if sealed then some n else none)).foldl (switchTxn i n k first) p
  if sealed then replayJournal p i (n + 1) 0 else p

/-- Every task slot of the partition is FREE. -/
def allFree (p : Plane) (i : Nat) : Bool := (liveTasks p i).isEmpty

end Sys2Proof.Machine
end

