-- ==== Sys2Proof/Machine/Recover.lean ====
section
/-! DEFINITION. Recovery: membership points (R217), the pre-round set (R227), rollback and the restart
barrier (R252 to R255), hosts of virtual engines, fences, quarantine, plane fatal (R260 to R263). -/

namespace Sys2Proof.Machine

/-! ## Membership points (R217) -/

/-- The change of STATE the table of R217 allows at a commit or at a restart point. -/
def memberAllowed (commit : Bool) (old next : Nat) : Bool :=
  match old, next with
  | 0, 1 => commit
  | 1, 2 => commit
  | 2, 3 => true
  | 1, 0 => !commit
  | 2, 0 => !commit
  | 3, 0 => !commit
  | _, _ => false

def setMember (e : BitVec 256) (st epoch : Nat) : BitVec 256 :=
  setFld (setFld (setFld e 33 32 st) 95 48 epoch) 36 36 0

/-- One entry at a membership point; LEAVING becomes ABSENT without being staged. -/
def memberStep (commit : Bool) (epoch : Nat) (e : BitVec 256) : BitVec 256 :=
  if peerState e = 3 then setMember e 0 epoch
  else if peerNv e && memberAllowed commit (peerState e) (peerNext e) then setMember e (peerNext e) epoch
  else e

def membershipSlot (commit : Bool) (epoch : Nat) (p : Plane) (g : Nat) : Plane :=
  let old := peersOf p g
  if old.all (fun e => memberStep commit epoch e.2 == e.2) then p
  else
    let p := old.foldl (fun p e => setPeer p g e.1 (memberStep commit epoch e.2)) p
    recount (modSlot p g (fun x => setFld x 159 112 epoch)) g

def membershipPoint (p : Plane) (i : Nat) (commit : Bool) (epoch : Nat) : Plane :=
  (slotsOf p i).foldl (membershipSlot commit epoch) p

/-! ## Pre-round (R227) -/

/-- FLOOR_SRC of every defined conversion context of the partition with one of the IDs, resident or
paged out. -/
def setFloorSrc (i v : Nat) (gids : List Nat) (p : Plane) : Plane :=
  p.gaz.defined.foldl (fun p id =>
    match ctxAny p id with
    | none => p
    | some c =>
      if !ctxIsUpd c && ctxPart c == i && gids.contains (ctxGid c) then
        ctxPutAny p id (setFld c 139 138 v)
      else p) p

/-- The same fields in the account of the restart Milestone. -/
def snapFloorSrc (i v : Nat) (gids : List Nat) (p : Plane) : Plane :=
  modP p i (fun x => { x with
    snaps := x.snaps.map (fun s => { s with
      preRound := x.preRound
      ctxs := s.ctxs.map (fun c =>
        if !ctxIsUpd c.2 && gids.contains (ctxGid c.2) then (c.1, setFld c.2 139 138 v) else c) }) })

/-- The actions of R227 at a restart point, for the union of the lists and the epoch of the misses. -/
def preRoundEnter (p : Plane) (i : Nat) (miss : List Nat) (e : Nat) (full : Bool) : Plane :=
  if miss.isEmpty && !full then p
  else if !dutyHw p i 0 then p
  else
    let x := getP p i
    let all := miss.foldl (fun t g => spPut t g (e + 64)) x.preRound
    if full || decide (1024 < all.length) then
      raise p .preFull srcCore (some i) (dColl e 0 0 0 0 0 0) [.pn i 4]
    else
      let p := modP p i (fun x => { x with preRound := all })
      snapFloorSrc i 2 miss (setFloorSrc i 2 miss p)

/-- The commit of an expiry epoch removes its entries. -/
def preRoundExpire (p : Plane) (i n : Nat) : Plane :=
  let gone := ((getP p i).preRound.filter (fun g => g.2 == n)).map Prod.fst
  if gone.isEmpty then p
  else
    let p := modP p i (fun x => { x with preRound := x.preRound.filter (fun g => g.2 != n) })
    snapFloorSrc i 1 gone (setFloorSrc i 1 gone p)

/-! ## Seal traffic of a failure (R245) -/

/-- The groups of the seal tree that this Plane is in, from the inside; none when it decides alone. (log 89: DEDUCED, unsafe) -/
def sealChain (p : Plane) (i : Nat) : List Nat :=
  match (getP p i).policy.sealSlot with
  | some g =>
    if (getP p i).replay.isNone && gEn (getSlot p g) && isActiveRank p g (selfRank p g) then parentChain p g else []
  | none => []

/-- The verdict word; a FAILED verdict of floor misses carries the union of the members' lists behind it
(log 142: DESIGN CHOICE, unsafe). -/
def verdictPkt (p : Plane) (i g dst n v : Nat) (miss : List Nat) : Packet :=
  wordPkt p i g dst 6 n 0xFFFE 0 (1 + miss.length) true (toLE 8 (v + n % 2 ^ 48 * 2 ^ 16) ++ miss.flatMap (toLE 8))

/-- A verdict to the other members of a group. -/
def verdictDown (i n v : Nat) (miss : List Nat) (p : Plane) (g : Nat) : Plane :=
  (others p g).foldl (fun p r => sendPkt p i g none (verdictPkt p i g r n v miss)) p

def isAggregator (p : Plane) (g : Nat) : Bool := aggregator p g == some (selfRank p g)

/-- FAILED towards the top: to the first aggregator on the way that is another Plane; the top aggregator
sends it down. `below` lists the groups whose aggregator this Plane is. -/
def failedUp (i n : Nat) : List Nat → List Nat → Plane → Plane
  | _, [], p => p
  | below, g :: t, p =>
    if isAggregator p g then
      if t.isEmpty then (g :: below).foldl (verdictDown i n 2 []) p else failedUp i n (g :: below) t p
    else
      match aggregator p g with
      | some a => sendPkt p i g none (verdictPkt p i g a n 2 [])
      | none => p

/-- A member that aborts tells its seal group (R245 step 4). -/
def tellFailed (p : Plane) (i n : Nat) : Plane :=
  match (getP p i).policy.sealSlot with
  | none => p
  | some g =>
    if dutyHw p i 3 && gEn (getSlot p g) && (getP p i).replay.isNone then
      failedUp i n [] (parentChain p g) p
    else p

/-! ## Beginning a rollback -/

/-- Memory requests of a partition (R253 step 2). -/
def reqsOf (p : Plane) (i : Nat) : Bool :=
  p.memp.any (fun m => (m.2.reqs ++ m.2.waiting).any (fun r => r.part == some i))

/-- Sends of the partition's collectives that have neither their ACK nor COLL_TIMEOUT. -/
def sendsOf (p : Plane) (i : Nat) : Bool :=
  p.sent.any (fun s => s.part == i && s.coll.isSome && (peerOfRank p s.gslot s.rank).isSome)

/-- An issued instruction that runs to completion before the discard: one that waits for no other task and no other
Plane, and is not of a stopped slot (R253 step 1). (log 60: DESIGN CHOICE, unsafe) -/
def owed (p : Plane) (i : Nat) (f : Flight) : Bool :=
  f.part == i && (getT p f.veng f.slot).st != .stopped
    && !(epGet (getP p i) f.epoch).heldWait.any (fun h => h.1 == f.id) && (match f.finish with
      | .coll _ | .ring | .crossArrive _ | .sealArrive => false
      | _ => true)

/-- The Plane has drained (R253 step 2). -/
def drained (p : Plane) (i : Nat) : Bool := !reqsOf p i && !sendsOf p i && !p.flights.any (owed p i)

/-- A stopped slot abandons what it has issued (R253 step 1). -/
def abandonStopped (p : Plane) (i : Nat) : Plane :=
  let out (v s : Nat) : Bool := partOf p v == some i && (getT p v s).st == .stopped
  { p with
    flights := p.flights.filter (fun f => !out f.veng f.slot)
    colls := p.colls.filter (fun c => !out c.veng c.slot) }

/-- The union of the members' floor-miss lists as the FAILED verdict brought it, with the epoch of the misses; this
Plane's own list where no verdict of a seal group decides. -/
def missUnion (p : Plane) (i : Nat) : List Nat × Nat :=
  let x := getP p i
  match x.epochs.find? (fun e => decide (x.committed < e.n) && e.phase == .formed) with
  | none => ([], 0)
  | some e =>
    if e.verdict = some false then (e.verdictMiss, e.n)
    else if sealChain p i = [] ∨ !dutyHw p i 3 then (e.miss, e.n)
    else ([], 0)

/-- Causes of a ROLLBACK record: 0 FAILED verdict, 1 COMMIT_POLICY, 2 landing check, 3 hard engine fault,
4 quarantine, 5 plane table, 6 other. `told` when the verdict came from above. -/
def beginRollback (p : Plane) (i cause : Nat) (told : Bool) : Plane :=
  let x := getP p i
  if !x.defined || x.rollback.isSome then p
  else
    let last := x.epochs.foldl (fun n e => max n e.n) (running p i)
    let m := missUnion p i
    let p := if told then p else tellFailed p i (x.committed + 1)
    let rb : Rollback := ⟨cause, x.committed + 1, last, false, [], false, false, m.1, m.2⟩
    modP (abandonStopped p i) i (fun x => { x with
      rollback := some rb
      replay := x.replay.map (fun r => { r with stop := some (r.stop.getD 0) }) })

/-! ## Discard and restore (R253 steps 3 and 4) -/

/-- A run or packet of a discarded epoch is answered DISCARDED (R254). -/
def dropRun (i : Nat) (p : Plane) (r : HeldRun) : Plane :=
  match r.ack with
  | some (g, k) => sendAck (addStale p g) i g k 1
  | none => p

def dropHeld (p : Plane) (i : Nat) : Plane :=
  let runs := p.heldRuns.filter (fun r => r.part == i)
  let pkts := p.heldPkts.filter (fun k => gPart (getSlot p k.gslot) == i && k.pkt.cid != 0xFFFC)
  let p := { p with
    heldRuns := p.heldRuns.filter (fun r => r.part != i)
    heldPkts := p.heldPkts.filter (fun k => !(gPart (getSlot p k.gslot) == i && k.pkt.cid != 0xFFFC)) }
  let p := (runs.foldl (fun (a : Plane × List (Nat × Packet)) r =>
    match r.ack with
    | some k => if a.2.contains k then a else (dropRun i a.1 r, k :: a.2)
    | none => a) (p, [])).1
  pkts.foldl (fun p k => sendAck (addStale p k.gslot) i k.gslot k.pkt 1) p

/-- Plaza, Squares, weights, arrivals, sequences and late halves of a virtual engine. -/
def dropVeng (first last : Nat) (p : Plane) (v : Nat) : Plane :=
  modV p v (fun e => { e with
    active := none
    shadow := none
    plaza := []
    groups := []
    squares := []
    arrivals := []
    ring := none
    late := e.late.filter (fun h => !(decide (first ≤ h.2.epoch) && decide (h.2.epoch ≤ last))) })

def idleStream (s : Stream) : Stream := streamStarted (setFld s.img 190 189 0) s.owner s.slot s.epoch

def vmaskOf (p : Plane) (i : Nat) : Nat := (partVengs p i).foldl (fun n v => n + 2 ^ v) 0

/-- The replay counts its own retries: a count that a record of the discarded attempt would have made is
dropped. (log 136: DESIGN CHOICE, unsafe) -/
def dropCounts (b : BlackBox) (i first : Nat) : BlackBox :=
  let keep (l : List Ack) : List Ack := l.filter (fun a =>
    match a with
    | .count j n _ => j != i || decide (n < first)
    | _ => true)
  { b with
    queue := b.queue.map (fun x => (x.1, keep x.2))
    coal := b.coal.map (fun c => { c with acks := keep c.acks })
    lostAcks := keep b.lostAcks }

/-- Everything of a partition that R253 step 3 and R161 discard. -/
def discard (p : Plane) (i : Nat) (rb : Rollback) : Plane :=
  let p := dropHeld p i
  let p := (partVengs p i).foldl (dropVeng rb.first rb.last) p
  let vm := vmaskOf p i
  let p := modEps p i (fun e => if rb.first ≤ e.n then { e with sealedCtx := [], held := [], heldWait := [] } else e)
  { p with
    flights := p.flights.filter (fun f => f.part != i)
    colls := p.colls.filter (fun c => c.part != i)
    sent := p.sent.map (fun s => if s.part = i then { s with coll := none } else s)
    ringSends := p.ringSends.filter (fun r => partOf p r.src != some i)
    ringRecvs := p.ringRecvs.filter (fun r => partOf p r.veng != some i)
    streams := p.streams.map (fun s => if partOf p s.2.owner = some i then (s.1, idleStream s.2) else s)
    queues := p.queues.map (fun q => if q.2.part = i ∧ q.2.en then (q.1, { q.2 with items := [] }) else q)
    cross := p.cross.filter (fun c => c.2.mask.toNat &&& vm == 0)
    rowDir := if p.rdOwner = some i then [] else p.rowDir
    bb := dropCounts p.bb i rb.first }

/-- Contexts as they stood at the Milestone; a context first defined later is undefined again. -/
def restoreCtxs (p : Plane) (i : Nat) (s : Snapshot) : Plane :=
  let mine (id : Nat) : Bool := ((ctxAny p id).map ctxPart) == some i
  let p := (p.gaz.defined.filter (fun id => mine id && (spGet s.ctxs id).isNone)).foldl releaseCtx p
  s.ctxs.foldl (fun p c =>
    let p := { p with gaz := { p.gaz with defined := addNew p.gaz.defined c.1 } }
    ctxPutAny p c.1 c.2) p

/-- Histogram slots that the discarded epochs touched, from the image of the Milestone (R128). -/
def restoreHist (p : Plane) (slots : List Nat) (r : Nat) : Plane :=
  slots.foldl (fun p h =>
    { p with hist := forN 64 p.hist (fun t b =>
        spSet 0 t (h * 64 + b)
          (memNatAt p ((p.regs.histBase.toNat + 2 ^ 20 * (r % 2) + 256 * h + 4 * b) % 2 ^ 52) 4)) }) p

/-- TASK_STOP still waits for the slot. -/
def stopWaits (p : Plane) (v s : Nat) : Bool :=
  p.mbx.any (fun m => (m.2.exec.map Exec.waits) == some (.slotFree v s))

/-- A slot at its checkpoint from the close of epoch `r`, or FREE. (log 61: DESIGN CHOICE, unsafe) -/
def restoreSlot (r v : Nat) (p : Plane) (s : Nat) : Plane :=
  let t := getT p v s
  match t.checks.find? (fun c => c.epoch == r) with
  | none => setT p v s { Task.init with checks := t.checks.filter (fun c => decide (c.epoch ≤ r)) }
  | some c =>
    let st : TaskSt := if (getP p ((partOf p v).getD 0)).halted.isSome then .stopped
      else if stopWaits p v s then .ending else .active
    setT p v s ⟨st, c.regs, r + 1, c.session, 0, false, false, t.checks.filter (fun c => decide (c.epoch ≤ r))⟩

def restoreTasks (p : Plane) (i r : Nat) : Plane :=
  (partVengs p i).foldl (fun p v => (spKeys (getV p v).tasks).foldl (restoreSlot r v) p) p

/-- What the release of a seal Crossing took from a region for an image that is never written (R368);
positions 12 and 13 hold the lowest slack code and the highest temperature plus 128. -/
def unsnapRegion (p : Plane) (r : Nat × Sparse Nat) : Plane :=
  modRg p r.1 (fun x => { x with
    slackImage := min x.slackImage (spGetD r.2 12 255)
    tempImage := max x.tempImage (((spGetD r.2 13 0 : Nat) : Int) - 128) })

def unsnap (p : Plane) (i : Nat) : Plane :=
  ((getP p i).epochs.filter (fun e => e.phase == .released)).foldl (fun p e => e.snapR.foldl unsnapRegion p) p

def snapOf (x : Part) (r : Nat) : Option Snapshot := x.snaps.find? (fun s => s.epoch == r)

def restore (p : Plane) (i : Nat) (rb : Rollback) : Plane :=
  let x := getP p i
  let r := rb.first - 1
  let touched := x.epochs.foldl (fun l e => if r < e.n then e.hist.foldl addNew l else l) []
  let p := restoreHist (unsnap p i) touched r
  let p := match snapOf x r with
    | none => p
    | some s =>
      let p := restoreCtxs p i s
      let p := { p with coef := forN x.coefCount p.coef (fun t k =>
        match spGet s.coef (x.coefFirst + k) with
        | some ws => spPut t (x.coefFirst + k) ws
        | none => spDel t (x.coefFirst + k)) }
      modP p i (fun x => { x with settings := s.settings, preRound := s.preRound })
  let p := modP p i (fun x => { x with
    lastClosed := r
    journal := x.journal.map (fun j => if r < j.epoch then { j with applied := false } else j)
    snaps := x.snaps.filter (fun s => decide (s.epoch ≤ r))
    starts := x.starts.map (fun s => if r < s.epoch then { s with done := false } else s) })
  restoreTasks p i r

/-- A start that rollback has kept runs again once its slot is FREE and the running epoch has reached
it, in order per slot (R253 step 4). (log 63: DESIGN CHOICE, unsafe) -/
def replayStart (i : Nat) (a : Plane × List (Nat × Nat)) (k : Nat) : Plane × List (Nat × Nat) :=
  match (getP a.1 i).starts[k]? with
  | none => a
  | some s =>
    if s.done then a
    else if a.2.contains (s.veng, s.slot) then a
    else if (getT a.1 s.veng s.slot).st = .free ∧ s.epoch ≤ running a.1 i then
      let p := a.1
      let st : TaskSt := if (getP p i).halted.isSome then .stopped
        else if stopWaits p s.veng s.slot then .ending else .active
      let n := running p i
      let p := modT p s.veng s.slot (fun t =>
        { t with
          st := st
          regs := s.regs
          epoch := n
          session := s.session
          failTags := 0
          byHalt := false })
      (modP p i (fun x => { x with
        starts := (x.starts.zipIdx).map (fun y => if y.2 = k then { y.1 with done := true } else y.1) }),
        (s.veng, s.slot) :: a.2)
    else (a.1, (s.veng, s.slot) :: a.2)

def replayStarts (p : Plane) (i : Nat) : Plane :=
  ((List.range (getP p i).starts.length).foldl (replayStart i) (p, [])).1

/-! ## Milestone area (R242) -/

def msAddr (p : Plane) (i n : Nat) : Nat := ((getP p i).msBase.toNat + 2 ^ 23 * (n % 2)) % 2 ^ 52

/-- OUTCOME of a record: bits 609:608 of the header. -/
def writeOutcome (i v : Nat) (p : Plane) (n : Nat) : Plane :=
  let a := msAddr p i n + 76
  setPn (agentWrite p (some i) a (toLE 1 (setBits (memNatAt p a 1) 1 0 v))) i 1

/-! ## Restart barrier and resumption (R253 steps 5 and 6, R254, R255) -/

def readyPeers (p : Plane) (i : Nat) : List (Nat × Nat) :=
  (slotsOf p i).flatMap (fun g => (others p g).map (fun r => (g, r)))

/-- (log 62: DESIGN CHOICE, unsafe) -/
def sendReady (p : Plane) (i n : Nat) : Plane :=
  (readyPeers p i).foldl (fun p gr =>
    sendPkt p i gr.1 none (wordPkt p i gr.1 gr.2 6 n 0xFFFC 0 0 true [])) p

def stopAll (p : Plane) (i : Nat) : Plane :=
  (partVengs p i).foldl (fun p v =>
    modV p v (fun e => { e with tasks := e.tasks.map (fun t =>
      if t.2.st = .free then t else (t.1, { t.2 with st := .stopped })) })) p

/-- The stop of R255 and R261. (log 65: DESIGN CHOICE, unsafe) -/
def haltPart (p : Plane) (i : Nat) (why : HaltWhy) (c : Code) (n cause : Nat) : Plane :=
  let p := modP p i (fun x => { x with halted := some why })
  raise (stopAll p i) c srcCore (some i) (dColl n 0 0 0 0 0 cause) [.pn i 6]

/-- Steps 5 (end) and 6: OUTCOME, the ROLLBACK record, the ledger; then the tasks go on. -/
def resumeRollback (p : Plane) (i : Nat) (rb : Rollback) : Plane :=
  let x := getP p i
  let r := rb.first - 1
  let formed := (x.epochs.filter (fun e => decide (r < e.n) && e.phase == .formed)).map EpRec.n
  let p := formed.foldl (writeOutcome i 2) p
  let p := raise p .rollback srcCore (some i) (dColl rb.first 0 0 0 rb.last 0 rb.cause) []
  let p := ledgerAdd (ledgerAdd p 1264 1) (1265 + rb.cause) 1
  let p := modP p i (fun x => { x with
    rollback := none
    epochs := x.epochs.filter (fun e => decide (e.n ≤ r))
    rollbacks := x.rollbacks + 1 })
  let p := if 4 ≤ x.rollbacks + 1 then haltPart p i .exhausted .replayExhausted r 0 else p
  replayStarts (replayJournal p i (r + 1) 0) i

/-- As far as a rollback can go now. -/
def rollbackStep (p : Plane) (i : Nat) : Plane :=
  match (getP p i).rollback with
  | none => p
  | some rb =>
    if !rb.restored then
      if !drained p i then p
      else
        let r := rb.first - 1
        let full := (getP p i).epochs.any (fun e => e.n == rb.missEpoch && e.missFull)
        let p := restore (discard p i rb) i rb
        let p := modP p i (fun x => { x with rollback := some { rb with restored := true } })
        let p := (List.range (rb.last + 1 - rb.first)).foldl (fun p k =>
          finishWaits p (.restored i (rb.first + k)) (okResp [rb.first + k])) p
        let p := membershipPoint p i false r
        preRoundEnter p i rb.miss rb.missEpoch full
    else if !rb.sentReady then
      if unacked p i then p
      else
        let p := modP p i (fun x => { x with rollback := some { rb with sentReady := true } })
        if (getP p i).replay.isSome then p else sendReady p i rb.first
    else if (getP p i).replay.isSome || (readyPeers p i).all (fun k => rb.got.contains k) then
      resumeRollback p i rb
    else p

/-- Three stages at most. -/
def rollbackProgress (p : Plane) (i : Nat) : Plane := rollbackStep (rollbackStep (rollbackStep p i) i) i

/-- Begin a rollback and take it as far as it goes. -/
def rollbackNow (p : Plane) (i cause : Nat) (told : Bool) : Plane :=
  let p := beginRollback p i cause told
  let p := match (getP p i).rollback with
    | some rb => (List.range (rb.last + 1 - rb.first)).foldl (fun p k =>
        finishWaits p (.summary i (rb.first + k)) (errResp 0x0151)) p
    | none => p
  rollbackProgress p i

/-! ## Hosts (R115, R159, R354, R361) -/

/-- Memory without what it lists in a range. -/
def clearRange (m : Mem) (a n : Nat) : Mem := m.filter (fun c => decide (c.1 < a) || decide (a + n ≤ c.1))

/-- The bytes of a range, from 0. -/
def cutRange (m : Mem) (a n : Nat) : Mem :=
  (m.filter (fun c => decide (a ≤ c.1) && decide (c.1 < a + n))).map (fun c => (c.1 - a, c.2))

/-- The buffer of a virtual engine moves between its engine and its backing area. -/
def rebackBuf (old : Bool) (p : Plane) (v : Nat) : Plane :=
  let a := backBuf p v 0
  match old, isHosted p v with
  | false, true =>
    let m := (getV p v).buf.foldl (fun m c => memPut 0 m (a + c.1) c.2) (clearRange p.mem a (2 * halfBytes))
    modV { p with mem := m } v (fun e => { e with buf := [] })
  | true, false =>
    modV p v (fun e => { e with buf := cutRange p.mem a (2 * halfBytes) })
  | _, _ => p

/-- An enable of a physical engine (R361); R362 keeps it from a fenced one. -/
def enable (p : Plane) (e : Nat) : Plane :=
  match (getPhys p e).power with
  | .draining => modPhys p e (fun x => { x with latched := true })
  | .gated => modPhys p e (fun x => { x with latched := true })
  | _ => p

/-- Virtual engine `v` takes a host; the lower-numbered of an engine's two becomes current (R191). -/
def placeVeng (p : Plane) (v h : Nat) : Plane :=
  let aff := upTo 64 (fun w => (getV p w).host == h || (getV p w).host == (getV p v).host)
  let old := aff.map (fun w => (isHosted p w, w))
  let p := modV p v (fun e => { e with host := h, moveTo := none })
  let p := old.foldl (fun p x => rebackBuf x.1 p x.2) p
  enable (modPhys p h (fun x => { x with cur := (hostedOn p h).headD h })) h

/-- In-service engine of the partition that hosts fewest virtual engines, the lowest among equals, at
most one so far (R261). -/
def pickFrom (p : Plane) (es : List Nat) : Option Nat :=
  let n (e : Nat) : Nat := (upTo 64 (fun v =>
    (match (getV p v).moveTo with
      | some h => h
      | none => (getV p v).host) == e)).length
  let ok := es.filter (fun e => !isFenced p e && decide (n e < 2))
  match ok.filter (fun e => n e == 0) with
  | e :: _ => some e
  | [] => ok.head?

def pickHost (p : Plane) (i : Nat) : Option Nat := pickFrom p (partVengs p i)

/-! ## Placement at start-up and by PARTITION_SET (R354) -/

/-- How many of the placed sit on an engine. -/
def placedOn (hosts : Sparse Nat) (e : Nat) : Nat := (hosts.filter (fun h => h.2 == e)).length

/-- The engine among `es` in service that has fewest of the placed, at most one so far; the lowest among
equals. -/
def fewest (p : Plane) (hosts : Sparse Nat) (es : List Nat) : Option Nat :=
  let ok := es.filter (fun e => !isFenced p e && decide (placedOn hosts e < 2))
  match ok.filter (fun e => placedOn hosts e == 0) with
  | e :: _ => some e
  | [] => ok.head?

/-- In its own region, or by R261 in the partition when the region is quarantined or has no room; one without any room
stays on its own engine. -/
def placeNext (p : Plane) (hosts : Sparse Nat) (v : Nat) : Sparse Nat :=
  let own := if (getRg p (v / 8)).quarantined then none
    else fewest p hosts ((List.range 8).map (fun k => 8 * (v / 8) + k))
  let all := fewest p hosts (((partOf p v).map (partVengs p)).getD [])
  spPut hosts v ((own <|> all).getD v)

/-- Virtual engines that PARTITION_SET affects: those of regions that change hands, and those whose host is no longer of
their partition (R354). -/
def affected (p : Plane) (old new : Nat) : List Nat :=
  upTo 64 (fun v => bit old (v / 8) != bit new (v / 8) || partOf p v != partOf p (getV p v).host)

/-- Hosts of the virtual engines `vs`, the others keeping theirs: first each on its own engine in service, so
that its engine counts one as in R354's example; then, in ascending order, those whose engine is fenced. (log 29: DEDUCED, unsafe) -/
def placement (p : Plane) (vs : List Nat) : Sparse Nat :=
  let others := (upTo 64 (fun v => !vs.contains v)).map (fun v => (v, (getV p v).host))
  let own := (vs.filter (fun v => !isFenced p v)).map (fun v => (v, v))
  (vs.filter (fun v => isFenced p v)).foldl (placeNext p) ((others ++ own).foldl (fun h x => spPut h x.1 x.2) [])

/-! ## Fences (R261, R355) -/

def fieldMask (p : Plane) : Nat := forN 64 0 (fun n e => if (getPhys p e).fieldFence then n + 2 ^ e else n)

def lastGen (p : Plane) : CfgCopy :=
  p.nvm.writes.foldl (fun a w => match w with
    | .cfg c _ _ _ _ => c
    | _ => a) (cfgNow p)

/-- A new configuration copy with the field fence mask as it now is (R339, R355). -/
def writeMask (p : Plane) (e : Nat) (fence : Bool) (mbx : Option Nat) (v0 : Nat) : Plane :=
  let c := lastGen p
  let w : NvmWrite := .cfg ⟨c.gen + 1, c.set, BitVec.ofNat 64 (fieldMask p)⟩ e fence mbx v0
  { p with nvm := { p.nvm with writes := p.nvm.writes ++ [w] } }

/-- Mark the field fence: its mask bit, ledger counter 160 + e, the FENCE record once NVM holds the mask. -/
def markFence (p : Plane) (e : Nat) (mbx : Option Nat) (v0 : Nat) : Plane :=
  if (getPhys p e).fieldFence then p
  else
    let p := modPhys p e (fun x => { x with fieldFence := true, scanPassed := false, latched := false })
    writeMask (ledgerAdd p (160 + e) 1) e true mbx v0

/-- A hard fence stops the slots and abandons the work in flight of what an engine hosts. -/
def abandon (p : Plane) (e : Nat) : Plane :=
  (hostedOn p e).foldl (fun p v =>
    let p := modV p v (fun x => { x with tasks := x.tasks.map (fun t =>
      if t.2.st = .free then t else (t.1, { t.2 with st := .stopped })) })
    { p with
      flights := p.flights.filter (fun f => f.veng != v)
      colls := p.colls.filter (fun c => c.veng != v) }) p

/-- A virtual engine goes to a host: at once when that is ACTIVE, else once its enable has woken it (R361). -/
def sendVeng (p : Plane) (v h : Nat) : Plane :=
  if (getPhys p h).power = .active then placeVeng p v h
  else enable (modV p v (fun x => { x with moveTo := some h })) h

/-- No engine of the partition can take a virtual engine: it stops with PART_DOWN (R261). -/
def noRoom (i : Nat) (p : Plane) (v : Nat) : Plane :=
  if (getP p i).halted = some .down then p else haltPart p i .down .partDown (running p i) v

/-- Move what an engine hosts. -/
def moveOff (i : Nat) (p : Plane) (v : Nat) : Plane :=
  match pickHost p i with
  | some h => sendVeng p v h
  | none => noRoom i p v

/-- They are placed again; a partition without room for one stops (R261). -/
def placeAgain (p : Plane) (vs : List Nat) : Plane :=
  let hosts := placement p vs
  vs.foldl (fun p v =>
    let h := spGetD hosts v v
    match isFenced p h, partOf p v with
    | true, some i => noRoom i p v
    | _, _ => if (getV p v).host = h then p else sendVeng p v h) p

/-- One engine's hard fence (R261, R294 duty 6), without the region's escalation. -/
def fenceOne (cause : Nat) (p : Plane) (e : Nat) : Plane :=
  if isFactory p e then p
  else
    let vs := hostedOn p e
    let i := partOfRegion p (e / 8)
    let p := abandon (markFence p e none 0) e
    match i with
    | none => p
    | some i =>
      let p := beginRollback p i cause false
      if dutyHw p i 6 then vs.foldl (moveOff i) p
      else modP (stopAll p i) i (fun x => { x with halted := some .fencing })

def regionEngines (r : Nat) : List Nat := (List.range 8).map (fun k => 8 * r + k)

def fencedIn (p : Plane) (r : Nat) : Nat := ((regionEngines r).filter (isFenced p)).length

/-- The region that supplies ROC: the lowest in service. -/
def referenceOf (p : Plane) : Option Nat := (upTo 8 (fun r => !(getRg p r).quarantined)).head?

/-- The Plane stops (R263): the record, the FATAL cause, no packet is answered. -/
def planeFatal (p : Plane) (c : Code) (detail : List Byte) : Plane :=
  let p := { p with regs := { p.regs with state := .halted } }
  let p := (List.range 8).foldl stopAll p
  raise p c srcCore none detail [.pl 0]

/-- Each ROUTE that selects a collective port of the region selects the partition's lowest one in service. -/
def reroute (p : Plane) (i r : Nat) : Plane :=
  match (portsOf p i).head? with
  | none => p
  | some n =>
    { p with peers := p.peers.map (fun e =>
        if fld e.2 127 124 / 2 = r then (e.1, setFld e.2 127 124 n) else e) }

/-- Requests and flits of a region's stopped ports are dropped. -/
def stopPorts (p : Plane) (r : Nat) : Plane :=
  let p := (regionEngines r).foldl (fun p n =>
    setMP p n { getMP p n with reqs := [], waiting := [] }) p
  [2 * r, 2 * r + 1].foldl (fun p n => setCP p n { getCP p n with txq := [] }) p

/-- The FENCE cause comes with the FENCE record of an engine that the quarantine fences, once NVM holds its mask; with
the QUARANTINE record where it fences none (R355). -/
def quarantineAck (p : Plane) (r : Nat) : List Ack :=
  if (regionEngines r).all (fun e => isFactory p e || (getPhys p e).fieldFence) then [.pl 1] else []

/-- Quarantine (R262). (log 66: DESIGN CHOICE, unsafe) -/
def quarantine (p : Plane) (r : Nat) : Plane :=
  if (getRg p r).quarantined then p
  else
    let i := partOfRegion p r
    let p := modRg p r (fun x => { x with quarantined := true })
    let p := match referenceOf p with
      | some q => { p with pins := { p.pins with reference := q } }
      | none => p
    let p := ledgerAdd p 30 1
    let p := raise p .quarantine (0x40 + r) i (dHw p r 0xFF 0 p.pins.reference) (quarantineAck p r)
    let p := (regionEngines r).foldl (fenceOne 4) p
    let p := stopPorts p r
    let p := match i with
      | some i => beginRollback (reroute p i r) i 4 false
      | none => p
    if (referenceOf p).isNone then planeFatal p .quarantine (dHw p r 0xFF 0 0) else p

/-- A hard fence with its escalation to the region. -/
def hardFence (p : Plane) (e : Nat) : Plane :=
  let p := fenceOne 3 p e
  if 4 ≤ fencedIn p (e / 8) then quarantine p (e / 8) else p

/-- The rollback of the partition that an engine belongs to. -/
def rollbackOf (p : Plane) (e cause : Nat) : Plane :=
  match partOfRegion p (e / 8) with
  | some i => rollbackNow p i cause false
  | none => p

/-! ## Errors of the plane tables (R260, R333) -/

def tableIndex : PlaneTable → Nat
  | .gazetteer => 0
  | .rowDir => 1
  | .hist => 2
  | .peers => 3
  | .streams => 4
  | .coef => 5
  | .squares => 6
  | .core => 7

/-- The entry of a table whose error cannot be corrected. (log 137: DESIGN CHOICE, unsafe) -/
def dropEntry (p : Plane) (t : PlaneTable) (n : Nat) : Plane :=
  match t with
  | .gazetteer => { p with gaz := { p.gaz with ways := spDel p.gaz.ways n, lru := p.gaz.lru.filter (fun k => k != n) } }
  | .rowDir => { p with rowDir := spDel p.rowDir n }
  | .hist => { p with hist := p.hist.filter (fun h => h.1 / 64 != n) }
  | .peers => { p with peers := spDel p.peers n }
  | _ => p

/-- The partition that owns the entry; the histogram slots are the Plane's, and the partition of the command that
met the error rolls back (log 137: DESIGN CHOICE, unsafe). -/
def entryPart (p : Plane) (t : PlaneTable) (n : Nat) (own : Option Nat) : Option Nat :=
  match t with
  | .gazetteer => ((ctxGet p n).map ctxPart).orElse (fun _ => own)
  | .rowDir => p.rdOwner
  | .peers => some (gPart (getSlot p (n / 4096)))
  | _ => own

/-- An error of a plane table met by partition `own`; the answer is false when it is not corrected. -/
def tableErr (own : Option Nat) (t : PlaneTable) (n : Nat) (ue : Bool) (p : Plane) : Plane × Bool :=
  let d := dHw p 0xFF 0xFF (tableIndex t) n
  let i := entryPart p t n own
  if !ue then (raise (ledgerAdd p (1248 + tableIndex t) 1) .plCe srcCore i d [], true)
  else if t = .core then (planeFatal p .plUe d, false)
  else
    let p := dropEntry (raise p .plUe srcCore i d []) t n
    (match i with
      | some i => rollbackNow p i 5 false
      | none => p, false)

end Sys2Proof.Machine
end

