-- ==== Sys2Proof/Machine/Outputs.lean ====
section
/-! DEFINITION. The output path of CONV, EWISE, RED and UPD: controls (R55 to R57), copies (R75, R249), held
buffers (R250), statistics, and the bytes to lines or to memory. -/

namespace Sys2Proof.Machine

/-! ## Controls of the OCU (R55) -/

/-- A reserved ACT or BMODE (R166). (log 48: DEDUCED, unsafe) -/
def ocuIll (act : BitVec 5) (bmode : BitVec 2) : Bool :=
  (decide (0 < act.toNat) && decide (act.toNat < 16)) || bmode.toNat == 3

/-- The rounding mode in force; an override of 0b11 reads as 0b00 (R60). -/
def modeOf (rmo : BitVec 2) (c : Cx) : Nat :=
  if rmo.toNat = 0 ∨ rmo.toNat = 3 then ctxRmode c else rmo.toNat

/-- Steps 2 to 4 of R23: y32 and the flush of step 3. -/
def ocuY (p : Plane) (i : Nat) (act : BitVec 5) (v : XVal) (s b : U32) : U32 × Bool :=
  let t := ocuT32 v s b
  if act.toNat < 16 then t else (activate (actAt p i (act.toNat - 16)) t.1, t.2)

def wordAt (bs : List Byte) (j : Nat) : U32 := BitVec.ofNat 32 (leNat ((bs.drop (4 * j)).take 4))

/-- Buffer operand of a vector bias of `n` words: at s[BIR], offset 0. -/
def biasSpan (p : Plane) (e : Env) (bir : BitVec 5) (n : Nat) : BufAt × List Code :=
  bufResolve p e.v (e.r bir) 0 (unitsOf (4 * n)) .read

/-- Bias word of logical column `j` (R57). -/
def biasOf (p : Plane) (e : Env) (bmode : BitVec 2) (bir : BitVec 5) (n : Nat) : Nat → U32 :=
  match bmode.toNat with
  | 1 => fun _ => BitVec.ofNat 32 (e.r32 bir)
  | 2 =>
    let bs := bufGet p (biasSpan p e bir n).1 (4 * n)
    fun j => wordAt bs j
  | _ => fun _ => 0#32

/-! ## Copies and waits of sealed-class tensors -/

/-- Another uncommitted epoch before `n` wrote the tensor. -/
def wroteEarlier (p : Plane) (i n id : Nat) : Bool :=
  (getP p i).epochs.any (fun e => decide (e.n < n) && decide ((getP p i).committed < e.n) && e.wrote.contains id)

/-- The step value of R62. -/
def srStepOf (p : Plane) (i n id : Nat) (c : Cx) : Nat :=
  if ctxSrAdv c && wroteEarlier p i n id then (ctxSrStep c + 1) % 2 ^ 28 else ctxSrStep c

/-- Writes of a sealed-class tensor go to !VER under SHADOW (R75, R249, R250); true is copy B. -/
def writeCopy (p : Plane) (i : Nat) (c : Cx) : Bool :=
  if ctxSealed c && !(getP p i).policy.hold then !ctxVer c else ctxVer c

/-- Reads by an instruction of epoch `n` (R249). -/
def readCopy (p : Plane) (i n : Nat) (c : Cx) : Bool :=
  let x := getP p i
  if ctxSealed c && !x.policy.hold
      && x.epochs.any (fun e => decide (x.committed < e.n) && decide (e.n ≤ n) && e.sealedCtx.contains (ctxId c)) then
    !ctxVer c
  else ctxVer c

/-- A sealed-class output waits for the commit of the epoch before (R237). -/
def sealHold (p : Plane) (e : Env) (id : Nat) : Bool :=
  match ctxGet p id with
  | some c => ctxSealed c && decide ((getP p e.pi).committed + 1 < e.ep)
  | none => false

/-- Uncommitted epochs on whose sealed lists a context stands. -/
def onLists (p : Plane) (i id : Nat) : List Nat :=
  ((getP p i).epochs.filter (fun x => decide ((getP p i).committed < x.n) && x.sealedCtx.contains id)).map EpRec.n

/-- Under HOLD a read of a sealed-class tensor of an earlier epoch waits (R250). -/
def holdWaits (p : Plane) (e : Env) (ids : List Nat) : Bool :=
  (getP p e.pi).policy.hold && ids.any (fun id => (onLists p e.pi id).any (fun n => decide (n < e.ep)))

/-- HOLD_READ: the epoch that reads has written the tensor itself. -/
def holdRead (p : Plane) (e : Env) (ids : List Nat) : Option (Code × List Byte) :=
  if (getP p e.pi).policy.hold then
    (ids.find? (fun id => (onLists p e.pi id).contains e.ep)).map (fun id => (.holdRead, toLE 4 id))
  else none

def firstOf (l : List (Option (Code × List Byte))) : Option (Code × List Byte) := l.findSome? id

/-! ## Held buffers (R250) -/

/-- Stage `bs` for address `a` in handles of HOLD_HQ; what finds the queue empty waits. (log 54: DESIGN CHOICE, unsafe) -/
def holdBytes (i n fid : Nat) : Nat → Plane → Nat → List Byte → Plane
  | 0, p, _, _ => p
  | fuel + 1, p, a, bs =>
    if bs = [] then p
    else
      let q := (getP p i).policy.holdHq
      match (getQ p q).items with
      | [] => modEp p i n (fun e => { e with heldWait := e.heldWait ++ [(fid, a, bs)] })
      | h :: _ =>
        let chunk := bs.take (128 * hUnits h - 16)
        let p := setQ p q { getQ p q with items := (getQ p q).items.drop 1, head := ((getQ p q).head + 1) % 32 }
        let p := bufPut p (handleAt h) (toLE 8 (a % 2 ^ 52) ++ toLE 8 chunk.length ++ chunk)
        let p := modEp p i n (fun e => { e with held := e.held ++ [⟨h, a, chunk⟩] })
        holdBytes i n fid fuel p (a + chunk.length) (bs.drop (128 * hUnits h - 16))

def holdSpan (i n fid : Nat) (p : Plane) (s : Nat × List Byte) : Plane :=
  holdBytes i n fid (s.2.length / 112 + 1) p s.1 s.2

/-! ## Elements out -/

def outSet (p : Plane) (e : Env) (cid : Nat) (c : Cx) (mode : Nat) : OutSet :=
  ⟨mode, dkeyAt p e.pi (ctxDKey c), srkeyAt p e.pi (ctxSrKey c), srStepOf p e.pi e.ep cid c⟩

/-- The spans of memory that elements of an output take, as (address, bytes) (R76, R173). -/
def outSpans (p : Plane) (e : Env) (cid mode : Nat) (els : List OutVal) : List (Nat × List Byte) :=
  match ctxGet p cid with
  | none => []
  | some c =>
    match ctxFmt c with
    | none => []
    | some f =>
      match fmtElem f with
      | none => []
      | some k =>
        let sh := shapeOf p c
        stageSpans (stageAll p.mem f k sh (writeCopy p e.pi c) (outRuns c f k (outSet p e cid c mode) sh els))

/-- Statistics of an output's elements, found at `p`, counted in `q` (R71). -/
def outCountAt (p q : Plane) (e : Env) (cid mode : Nat) (els : List OutVal) : Plane :=
  match ctxGet p cid with
  | none => q
  | some c =>
    match ctxFmt c with
    | none => q
    | some f =>
      match fmtElem f with
      | none => q
      | some k =>
        let os := outSet p e cid c mode
        applyStats q e.pi e.ep cid (outStats c f os (outRuns c f k os (shapeOf p c) els))

def outCount (p : Plane) (e : Env) (cid mode : Nat) (els : List OutVal) : Plane := outCountAt p p e cid mode els

/-- Elements to memory under the output's shape descriptor (R76, R173). -/
def emitMem (p : Plane) (e : Env) (fid cid mode : Nat) (els : List OutVal) : Plane :=
  let st := outSpans p e cid mode els
  if outHeld p e.pi cid then st.foldl (holdSpan e.pi e.ep fid) (outCount p e cid mode els)
  else st.foldl (fun p s => writeReqs p e.pi e.v e.s fid s.1 s.2) (outCount p e cid mode els)

/-- The bytes of lines of a buffer, one list of elements per line (R170). -/
def outLines (p : Plane) (e : Env) (cid mode : Nat) (lines : List (List OutVal)) : List Byte :=
  match ctxGet p cid with
  | none => []
  | some c =>
    match ctxFmt c with
    | none => []
    | some f =>
      match fmtElem f with
      | none => []
      | some k => lines.flatMap (fun l => lineBytes f k (outRuns c f k (outSet p e cid c mode) (shapeOf p c) l))

/-- Elements to lines of the buffer; the statistics count line by line. -/
def emitBuf (p : Plane) (e : Env) (cid mode : Nat) (dst : BufAt) (lines : List (List OutVal)) : Plane :=
  bufPut (lines.foldl (fun q l => outCountAt p q e cid mode l) p) dst (outLines p e cid mode lines)

/-- Format of a resident conversion context. -/
def fmtAt (p : Plane) (id : Nat) : Option Fmt := (ctxGet p id).bind ctxFmt

/-- Shape of a resident conversion context. -/
def shAt (p : Plane) (id : Nat) : Shape := shapeOf p ((ctxGet p id).getD 0)

/-- Units of a line of `n` elements of the context's format; 1 when it is not known. -/
def unitsAt (p : Plane) (id n : Nat) : Nat :=
  match fmtAt p id with
  | some f => lineUnits f n
  | none => 1

/-- BLOCK_ALIGN of a line that starts at dimension-0 index `i0` (R170). -/
def lineFault (p : Plane) (id i0 : Nat) : List Code :=
  match fmtAt p id with
  | some f => if fmtIsBlock f && decide (i0 % 32 ≠ 0) then [.blockAlign] else []
  | none => []

/-- A 4-bit floating-point format (R82). -/
def isFp4 (f : Fmt) : Bool :=
  match f with
  | .e2m1 | .mxfp4 | .nx4 => true
  | _ => false

/-- `count` lines of `n` decoded elements; elements at index `k` or beyond read (0, FINITE) (R81, R83). -/
def readLines (p : Plane) (f : Fmt) (b : BufAt) (n count k0 k : Nat) : List (List XVal) :=
  let w := lineUnits f n
  (List.range count).map (fun i =>
    ((lineRead f n (bufGet p (lineAt b i w) (128 * w))).zipIdx).map (fun x =>
      if k0 + x.2 < k then x.1 else .fin dyZero))

end Sys2Proof.Machine
end

