-- ==== Sys2Proof/Machine/Tiles.lean ====
section
/-! DEFINITION. Plaza tiles: opening, adding, reading, releasing (R92 to R95), local contributions into Squares
and late contributions (R106, R107, R110, R111), and the checks of the array and the Plaza (R98 to R102). -/

namespace Sys2Proof.Machine

/-- One Plaza entry on its way into a tile, with its own floor and the events of its granules. -/
structure Cell where
  row : Nat
  col : Nat
  acc : Acc
  f : Int
  nan : Nat
  inf : Nat
deriving DecidableEq, Repr

/-! ## What a group allows (R92) -/

def isSquare (g : Group) : Bool :=
  match g.st with
  | .square _ => true
  | _ => false

/-- A FREE group that a RELEASED Square record of epoch `n` covers (R110). -/
def isPast (x : VEng) (n : Nat) (g : Group) : Bool :=
  match g.past with
  | some q => ((spGet x.squares q).map (fun s => s.st == .released && s.epoch == n)).getD false
  | none => false

def groupFault (x : VEng) (gs : List Nat) (c : Code) (bad : Group → Bool) : Option (Code × List Byte) :=
  (gs.find? (fun g => bad (getG x g))).map (fun g => (c, groupBytes x g))

def ovwFault (x : VEng) (gs : List Nat) : Option (Code × List Byte) := groupFault x gs .plazaState isSquare

def addFault (x : VEng) (n : Nat) (gs : List Nat) : Option (Code × List Byte) :=
  groupFault x gs .plazaNotOpen (fun g => g.st == .free && !isPast x n g)

/-- (log 39: DEDUCED, unsafe) -/
def readFault (x : VEng) (gs : List Nat) : Option (Code × List Byte) :=
  groupFault x gs .plazaNotOpen (fun g => g.st == .free)

/-- A read of a Square waits until it is CLOSED (R109). -/
def readWaits (x : VEng) (gs : List Nat) : Bool :=
  gs.any (fun g => match (getG x g).st with
    | .square q => ((spGet x.squares q).map (fun s => s.st == .opened)).getD false
    | _ => false)

/-! ## Opening (R93) -/

def clearGroup (x : VEng) (g : Nat) : VEng :=
  { x with plaza := x.plaza.filter (fun c => c.1 / 3072 != g) }

def countEvents (x : VEng) (row nan inf : Nat) : VEng :=
  let g := row / 16
  let d := getG x g
  setG x g { d with gnan := sat32 d.gnan nan, ginf := sat32 d.ginf inf }

def addCell (x : VEng) (c : Cell) : VEng :=
  countEvents (setAcc x c.row c.col (accJoin (getAcc x c.row c.col) c.acc)) c.row c.nan c.inf

def openGroup (s n : Nat) (f : Int) (x : VEng) (g : Nat) : VEng :=
  setG (clearGroup x g) g ⟨.opened, s, false, f, 0, 0, n, none⟩

/-- OVW: the tile's groups open with the floor, hold the cells and zero elsewhere. -/
def plazaOvw (v s n : Nat) (gs : List Nat) (f : Int) (cells : List Cell) (p : Plane) : Plane :=
  modV p v (fun x => cells.foldl addCell (gs.foldl (openGroup s n f) x))

/-! ## Late contributions (R110, R111) -/

def lateHalfAddr (p : Plane) (v n : Nat) : Nat := spillAddr p v (2 ^ 24 + 2 ^ 23 * (n % 2))

def lateHeader (h : LateHalf) : List Byte :=
  toLE 8 h.epoch ++ toLE 4 h.used ++ toLE 4 h.kept ++ toLE 4 h.dropped ++ zeros 44

/-- Keep a late record when it fits; the answer says whether it did. -/
def lateKeep (p : Plane) (v n : Nat) (rec : List Byte) : Plane × Bool :=
  let h0 : LateHalf := match spGet (getV p v).late (n % 2) with
    | some h => if h.epoch = n then h else ⟨n, 0, 0, 0⟩
    | none => ⟨n, 0, 0, 0⟩
  let a := lateHalfAddr p v n
  let ok := decide (h0.used + rec.length ≤ 8388544)
  let h : LateHalf := if ok then { h0 with used := h0.used + rec.length, kept := h0.kept + 1 }
    else { h0 with dropped := sat32 h0.dropped 1 }
  let p := if ok then memStore p ((a + 64 + h0.used) % 2 ^ 52) rec else p
  let p := memStore p a (lateHeader h)
  (modV p v (fun x => { x with late := spPut x.late (n % 2) h }), ok)

def modSq (p : Plane) (v q : Nat) (f : Square → Square) : Plane :=
  modV p v (fun x => match spGet x.squares q with
    | some s => { x with squares := spPut x.squares q (f s) }
    | none => x)

/-- A late contribution is recorded, counted and kept; nothing is added. `src` is the source byte of
R111, `rank` the contributor, `items` the entries with their floors in logical order from `idx`. (log 131: DEDUCED, unsafe) -/
def lateContribution (p : Plane) (i v slot q n src rank idx : Nat) (f : Int) (items : List (Acc × Int)) :
    Plane :=
  match spGet (getV p v).squares q with
  | none => p
  | some s =>
    let rec' := toLE 8 n ++ toLE 8 idx ++ toLE 4 s.gid ++ toLE 4 rank ++ toLE 4 items.length
      ++ toLE 2 (unsigned 16 f) ++ toLE 1 src ++ toLE 1 q ++ zeros 32
      ++ items.flatMap (fun x => xaf136Bytes x.1 x.2)
    let r := lateKeep p v n rec'
    let p := modSq r.1 v q (fun s => { s with late := s.late + 1 })
    pushRec (ledgerAdd p 1458 1) 4 (homePort p v) (Code.num .lateContribution) (some i) (!r.2)
      (dExec v slot s.gid idx f rank 0) [.count i n .late]

/-! ## Floor mismatches (R15, R50, R107) -/

def floorMismatch (p : Plane) (i n v slot src gid idx : Nat) (f : Int) (rank : Nat) : Plane :=
  raise (ledgerAdd p 1457 1) .floorMismatch src (some i) (dExec v slot gid idx f rank 0) [.count i n .floor]

/-! ## Adding -/

/-- Entries that contributions in flight will still count in a Square. (log 55: DESIGN CHOICE, unsafe) -/
def inFlightTally (p : Plane) (v q : Nat) : Nat :=
  (p.flights.filter (fun f => f.veng == v)).foldl (fun n f =>
    match f.finish with
    | .tally l => n + (l.filter (fun t => t.1 == q)).foldl (fun k t => k + t.2.1) 0
    | _ => n) 0

def addTally (p : Plane) (fid : Nat) (t : Nat × Nat × Nat) : Plane :=
  modFlight p fid (fun f => { f with
    finish := match f.finish with
      | .tally l => .tally (l ++ [t])
      | _ => .tally [t] })

/-- Index of a Plaza row and column within a Square's extent. -/
def extentIdx (s : Square) (row col : Nat) : Nat := (row - 16 * s.baseGrp) * 192 + col

/-- The Square that takes what is added into a group: the one it belongs to, or the RELEASED one that
still covers it. -/
def groupSq (x : VEng) (g : Nat) : Option Nat :=
  match (getG x g).st with
  | .square q => some q
  | .free => (getG x g).past
  | .opened => none

/-- How the entries of a contribution carry their floor: one for all (MMA, RED SUM), one image of `m` rows from row
`base` (XTLOAD), each its own (XLOAD). -/
inductive Floors where
  | one
  | image (base m : Nat)
  | own
deriving DecidableEq, Repr

/-- Entries that a contribution counts in a Square (R106): an XTLOAD counts every row it names, whatever its image
holds. -/
def countsIn (x : VEng) (q : Nat) (k : Floors) (good : Nat) : Nat :=
  match k with
  | .image base m => 192 * ((List.range m).filter (fun r => groupSq x ((base + r) / 16) == some q)).length
  | _ => good

/-- The part of a local contribution that falls into one Square. What is late is late whatever its floor (log 31:
DESIGN CHOICE, unsafe). -/
def addSquare (e : Env) (fid src q : Nat) (f : Int) (k : Floors) (cells : List Cell) (p : Plane) : Plane :=
  match spGet (getV p e.v).squares q, cells with
  | some s, c0 :: _ =>
    let each := k == .own
    let f := if each then c0.f else f
    let idx (c : Cell) : Nat := s.offset + extentIdx s c.row c.col
    let good := cells.filter (fun c => !each || c.f == s.f)
    let bad := cells.filter (fun c => each && c.f != s.f)
    let n := countsIn (getV p e.v) q k good.length
    if s.st ≠ .opened ∨ s.closeCnt * squareExtent s < s.tally + inFlightTally p e.v q + n then
      lateContribution p e.pi e.v e.s q e.ep src 0xFFFFFFFF (idx c0) f (cells.map (fun c => (c.acc, c.f)))
    else if !each && f != s.f then
      floorMismatch p e.pi e.ep e.v e.s e.src s.gid (idx c0) f 0xFFFFFFFF
    else
      let p := bad.foldl (fun p c => floorMismatch p e.pi e.ep e.v e.s e.src s.gid (idx c) c.f 0xFFFFFFFF) p
      let p := modV p e.v (fun x => good.foldl addCell x)
      let d := good.foldl (fun d c => digestAdd d (digestTerm s.dkey s.gid (idx c) c.acc.x)) 0
      addTally p fid (q, n, d)
  | _, _ => p

/-- The part that falls into OPEN groups. R50 applies to every element of an exact load. (log 56: DESIGN CHOICE, unsafe) -/
def addOpen (e : Env) (gid : Nat) (f : Int) (k : Floors) (gs : List Nat) (cells : List Cell) (p : Plane) :
    Plane :=
  let x := getV p e.v
  if k ≠ .one then
    let bad := cells.filter (fun c => c.f != (getG x (c.row / 16)).f)
    let p := bad.foldl (fun p c => floorMismatch p e.pi e.ep e.v e.s e.src gid 0 c.f 0xFFFFFFFF) p
    modV p e.v (fun x => (cells.filter (fun c => c.f == (getG x (c.row / 16)).f)).foldl addCell x)
  else if gs.any (fun g => (getG x g).f != f) then
    floorMismatch p e.pi e.ep e.v e.s e.src gid 0 f 0xFFFFFFFF
  else modV p e.v (fun x => cells.foldl addCell x)

/-- ADD into a tile whose groups may be OPEN or belong to Squares (R92, R105 to R110). -/
def plazaAdd (e : Env) (fid src gid : Nat) (f : Int) (k : Floors) (gs : List Nat) (cells : List Cell)
    (p : Plane) : Plane :=
  let x := getV p e.v
  let sqs := (gs.filterMap (groupSq x)).foldl addNew []
  let opened := gs.filter (fun g => (groupSq x g).isNone)
  let p := if opened.isEmpty then p
    else addOpen e gid f k opened (cells.filter (fun c => opened.contains (c.row / 16))) p
  sqs.foldl (fun p q =>
    addSquare e fid src q f k (cells.filter (fun c => groupSq x (c.row / 16) == some q)) p) p

/-! ## Reading and releasing -/

/-- Pending counts of the groups move to context `id` (R94). -/
def takePending (p : Plane) (i ep v : Nat) (gs : List Nat) (id : Nat) : Plane :=
  let x := getV p v
  let n := gs.foldl (fun n g => n + (getG x g).gnan) 0
  let f := gs.foldl (fun n g => n + (getG x g).ginf) 0
  let p := if n = 0 ∧ f = 0 then p else addPending p i ep id n f
  modV p v (fun x => gs.foldl (fun x g => setG x g { getG x g with gnan := 0, ginf := 0 }) x)

/-- The first group that a RELEASE frees moves its Square's record to RELEASED; the groups that it does not name stay
SQUARE (log 31: DESIGN CHOICE, unsafe). -/
def releaseGroup (x : VEng) (g : Nat) : VEng :=
  let past := match (getG x g).st with
    | .square q => some q
    | _ => none
  let x := setG (clearGroup x g) g { Group.init with past := past }
  match past with
  | some q =>
    match spGet x.squares q with
    | some s => { x with squares := spPut x.squares q { s with st := .released } }
    | none => x
  | none => x

def releaseTile (p : Plane) (v : Nat) (gs : List Nat) : Plane := modV p v (fun x => gs.foldl releaseGroup x)

/-- Entries of a tile, row by row, with the floor of their group. -/
def tileRows (x : VEng) (base m ncol : Nat) : List (List (Acc × Int)) :=
  (List.range m).map (fun r =>
    let f := (getG x ((base + r) / 16)).f
    (List.range ncol).map (fun c => (getAcc x (base + r) c, f)))

/-- An entry as the Plaza holds it (R89): SP and X below the SECDED code, whose matrix the manual does not give
(log 17: DESIGN CHOICE, safe). -/
def plazaEntry (a : Acc) : BitVec 147 :=
  let w : BitVec 138 := BitVec.ofNat 138 (unsigned 136 a.x + a.sp.toNat * 2 ^ 136)
  BitVec.ofNat 147 (w.toNat + (Config.secded w).toNat * 2 ^ 138)

/-! ## The checks of the array and the Plaza (R98 to R102) -/

/-- The environment of work that a slot has left to an engine. -/
def envTask (p : Plane) (v s i n : Nat) (ev : List ArrayEvent) : Env :=
  { i := ⟨Fin.ofNat 64 v, Fin.ofNat 16 s, false, false, 0, .ok, ev, []⟩
    v := v
    s := s
    pi := i
    ep := n
    t := getT p v s
    src := homePort p v }

/-- STOPPED slots leave their work in flight (R253 step 1). -/
def stopSlot (p : Plane) (v s : Nat) : Plane :=
  if (getT p v s).st = .free then p
  else
    { modT p v s (fun t => { t with st := .stopped }) with
      flights := p.flights.filter (fun f => !(f.veng == v && f.slot == s)) }

/-- The slots that name a group: its owner, the issuing one, those with accesses in flight. -/
def slotsNaming (p : Plane) (e : Env) (g : Nat) : List Nat :=
  let d := getG (getV p e.v) g
  ((p.flights.filter (fun f => f.veng == e.v && f.groups.any (fun k => k.1 == g))).map Flight.slot).foldl addNew
    (if d.st = .free then [e.s] else addNew [e.s] d.owner)

def stopNaming (p : Plane) (e : Env) (g : Nat) : Plane := (slotsNaming p e g).foldl (fun p s => stopSlot p e.v s) p

/-- What an instruction's checks apply to. -/
structure CheckUse where
  residue : Bool
  adder : Bool
deriving DecidableEq, Repr

/-- A hard fault of the engine: its counter, the fence, the rollback. (log 67: DESIGN CHOICE, unsafe) -/
def engineHard (p : Plane) (e : Nat) : Plane :=
  let p := hardFence (ledgerAdd p (96 + e) 1) e
  rollbackOf p e 3

/-- The events in order; the second answer is false when the instruction does not commit. `seen` holds
the columns with a first mismatch (true: of the Plaza adder). (log 59: DESIGN CHOICE, unsafe) -/
def arrayChecks (e : Env) (u : CheckUse) (base m : Nat) (desc : Nat → List Byte) :
    List (Bool × Nat) → List ArrayEvent → Plane → Plane × Bool
  | _, [], p => (p, true)
  | seen, a :: t, p =>
    let row := base + a.row.toNat
    let col := a.col.val
    let d := dArray e.v e.s col row 1 e.t.regs.pc (desc (row / 16))
    let rc (p : Plane) (c : Code) (acks : List Ack) : Plane := raise p c e.src (some e.pi) d acks
    let cnt : List Ack := [.count e.pi e.ep .retry]
    if m ≤ a.row.toNat then arrayChecks e u base m desc seen t p
    else
      match a.kind with
      | .plazaCE =>
        arrayChecks e u base m desc seen t (ledgerAdd (rc p .plazaCe []) (224 + 16 * e.src + col / 16) 1)
      | .plazaUE =>
        let p := ledgerAdd (stopNaming (rc p .plazaUe []) e (row / 16)) (96 + e.src) 1
        let again := (getPhys p e.src).ueBanks.contains col
        let p := modPhys p e.src (fun x => { x with ueBanks := addNew x.ueBanks col })
        (rollbackOf (if again then hardFence p e.src else p) e.src 3, false)
      | .adder =>
        if !u.adder then arrayChecks e u base m desc seen t p
        else if seen.contains (true, col) then (engineHard (rc p .plazaAdderHard []) e.src, false)
        else arrayChecks e u base m desc ((true, col) :: seen) t (rc p .plazaAdderRetry cnt)
      | k =>
        if !u.residue then arrayChecks e u base m desc seen t p
        else
          let p := ledgerAdd p (32 + e.src) 1
          if seen.contains (false, col) then (engineHard (rc p .residueHard []) e.src, false)
          else
            arrayChecks e u base m desc ((false, col) :: seen) t
              (rc p (if k = .laneParity then .laneParity else .residueRetry) cnt)

/-- Descriptor image of a group as the instruction's issue makes it. -/
def issueDesc (p : Plane) (e : Env) (ovw : Bool) (f : Int) (g : Nat) : List Byte :=
  if ovw then toLE 16 (groupImage g ⟨.opened, e.s, false, f, 0, 0, e.ep, none⟩ 0 0)
  else groupBytes (getV p e.v) g

/-- The effect, unless its checks stop it. -/
def checked (e : Env) (u : CheckUse) (base m : Nat) (desc : Nat → List Byte) (run : Plane → Plane) (p : Plane) :
    Plane :=
  let r := arrayChecks e u base m desc [] e.i.ev p
  if r.2 then run r.1 else r.1

/-- What an add that its checks stop leaves of its effect: the records and counts of its program faults (R195). -/
def onlyRecords (e : Env) (p q : Plane) : Plane :=
  { modV q e.v (fun x => { x with
      plaza := (getV p e.v).plaza
      groups := (getV p e.v).groups }) with
    flights := p.flights }

/-- A Plaza add. -/
def checkedAdd (e : Env) (u : CheckUse) (base m : Nat) (desc : Nat → List Byte) (run : Plane → Plane) (p : Plane) :
    Plane :=
  let r := arrayChecks e u base m desc [] e.i.ev p
  if r.2 then run r.1 else (arrayChecks e u base m desc [] e.i.ev (onlyRecords e p (run p))).1

/-! ## Over-ceiling granules (R19, R227) -/

def granOver (f : Int) (ps : List (XVal × XVal)) : Bool :=
  dyLe ⟨1, f + 120⟩ (dyAbs (ps.foldl granStep ⟨dyZero, 0, false, false⟩).s)

def rowOver (f : Int) (as bs : List (List XVal)) : Bool := (as.zip bs).any (fun p => granOver f (p.1.zip p.2))

/-- FLOOR_MISS: recorded once per instruction, its ID listed (R227). (log 70: DESIGN CHOICE, unsafe) -/
def floorMiss (p : Plane) (e : Env) (gid : Nat) : Plane :=
  let p := modEp p e.pi e.ep (fun x =>
    if x.miss.contains gid then x
    else if x.miss.length < 256 then { x with miss := x.miss ++ [gid] } else { x with missFull := true })
  raise (ledgerAdd p 1456 1) .floorMiss e.src (some e.pi) (dColl e.ep 0 0 0 0 gid 0)
    (if dutyHw p e.pi 0 then [] else [.pn e.pi 4])

def granulesOf (l : List XVal) : List (List XVal) := chunksOf 16 (l.length / 16 + 1) l

end Sys2Proof.Machine
end

