-- ==== Sys2Proof/Machine/Array.lean ====
section
/-! DEFINITION. Meanings of LDW, MMA, CONV, EWISE and RED (R81 to R94, R170 to R175). -/

namespace Sys2Proof.Machine

def rangeFault (b : Bool) : List Code := if b then [] else [.fieldRange]

/-! ## LDW (R81, R82, R171) -/

def ldwN (f : LdwF) : Nat := 16 * f.gcnt.toNat

def ldwBuf (p : Plane) (e : Env) (f : LdwF) : BufAt × List Code :=
  bufResolve p e.v (e.r f.wreg) f.wbuf.toNat (f.ncol.toNat * unitsAt p f.bctx.toNat (ldwN f)) .read

def ldwPlan (f : LdwF) (p : Plane) (e : Env) : Plan :=
  let b := ldwBuf p e f
  let id := f.bctx.toNat
  let fp4 := match fmtAt p id with
    | some k => isFp4 k
    | none => true
  let ok := decide (1 ≤ f.gcnt.toNat) && decide (f.gcnt.toNat ≤ if f.pair then 24 else 12)
    && decide (1 ≤ f.ncol.toNat) && decide (f.ncol.toNat ≤ 192) && (!f.pair || fp4)
  { plan0 with
    head := rangeFault ok ++ b.2 ++ lineFault p id (16 * e.r32 f.g0r)
    ctxs := [(id, .operand)]
    holds := (if (getV p e.v).shadow.isSome then [9] else []) ++ (if holdWaits p e [id] then [7] else [])
    check := holdRead p e [id]
    flies := true
    rd := [b.1] }

/-- The loaded columns; elements of k at or beyond K are (0, FINITE). (log 34: DEDUCED, unsafe) -/
def ldwCols (p : Plane) (e : Env) (f : LdwF) : List (List XVal) :=
  match fmtAt p f.bctx.toNat with
  | none => []
  | some k => readLines p k (ldwBuf p e f).1 (ldwN f) f.ncol.toNat (16 * e.r32 f.g0r) (size0 (shAt p f.bctx.toNat))

/-- The image lies in a swapping part (R172). -/
def inSwapping (p : Plane) (e : Env) (r : BitVec 5) (b : BufAt) : Bool :=
  !bit (e.r r) 63 && (bufPart (getV p e.v).bufCfg b.unit == .swapping)

/-- The 64 KiB buffers of a half at `a` that a span of the operand buffer touches. -/
def bufsTouched (b : BufAt) (a : BitVec 16) (n : Nat) : List Nat :=
  upTo n (fun k =>
    let u := a.toNat % 2 ^ 15 + 512 * k
    decide (b.half = a.toNat / 2 ^ 15) && decide (b.unit < u + 512) && decide (u < b.unit + b.span))

/-- An LDW reads buffers of the Roundabout (R153). -/
def readRing (b : BufAt) (q : RingSeq) : RingSeq :=
  let mark (h : RingHalf) : RingHalf := { h with read := (bufsTouched b h.place q.halfBufs).foldl addNew h.read }
  { q with
    even := mark q.even
    odd := mark q.odd }

def ldwRun (f : LdwF) (p : Plane) (e : Env) (_ : Nat) : Plane :=
  let b := (ldwBuf p e f).1
  let w : WLoad := ⟨e.s, f.bctx.toNat, e.r32 f.g0r, f.gcnt.toNat, f.pair, ldwCols p e f,
    inSwapping p e f.wreg b, false, bufRegions b⟩
  modV p e.v (fun x => { x with
    shadow := some w
    ring := x.ring.map (readRing b) })

/-! ## Passes (R86) -/

/-- The significand chunks of 4 bits that an element needs. -/
def chunkCount : Elem → Nat
  | .fp32 => 6
  | .fp16 => 3
  | .bf16 | .int8 | .mxint8 => 2
  | _ => 1

def isWide : Elem → Bool
  | .fp32 | .fp16 | .bf16 => true
  | _ => false

/-- The largest less the smallest exponent among the nonzero finite elements. -/
def spreadOf (l : List XVal) : Nat :=
  let es := l.filterMap (fun x => match x with
    | .fin d => if d.m = 0 then none else some (dyExp d)
    | _ => none)
  match es with
  | [] => 0
  | a :: t => (t.foldl max a - t.foldl min a).toNat

/-- Elements 32 j to 32 j + 31 of a line. -/
def block32 (j : Nat) (l : List XVal) : List XVal := (l.drop (32 * j)).take 32

/-- W of one input row: each 32-block of K chooses its own, and the row is presented in as many windows as the block
that needs most. (log 47: DEDUCED, unsafe) -/
def windowPasses (ka kb : Elem) (n : Nat) (row : List XVal) (cols : List (List XVal)) : Nat :=
  let base := if ka = .e5m2 ∨ kb = .e5m2 then 2 else 1
  if isWide ka || isWide kb then
    (List.range ((n + 31) / 32)).foldl (fun w j =>
      max w (min 4 (1 + (spreadOf (block32 j row) + spreadOf (cols.flatMap (block32 j))) / 16))) base
  else base

/-- Twice the array steps that one input row of `n` elements takes. -/
def rowSteps2 (ka kb : Elem) (paired : Bool) (n : Nat) (row : List XVal) (cols : List (List XVal)) : Nat :=
  chunkCount ka * chunkCount kb * windowPasses ka kb n row cols
    * (if paired then 1 else if isWide ka || isWide kb then 8 else 2)

/-! ## MMA (R83 to R86, R172) -/

def mmaN (f : MmaF) : Nat := 16 * f.gcnt.toNat

def mmaBuf (p : Plane) (e : Env) (f : MmaF) : BufAt × List Code :=
  bufResolve p e.v (e.r f.areg) f.abuf.toNat (f.m.toNat * unitsAt p f.actx.toNat (mmaN f)) .read

/-- The weights that the MMA will use: the shadow load when there is one. -/
def mmaWeights (x : VEng) : Option WLoad :=
  match x.shadow with
  | some w => some w
  | none => x.active

def mmaGroups (f : MmaF) : List Nat := tileGroups f.bgrp.toNat f.m.toNat

def mmaOctx (e : Env) (f : MmaF) : Nat := e.rCtx f.ocr

def gidAt (p : Plane) (id : Nat) : Nat := ((ctxGet p id).map ctxGid).getD 0

/-- Floor of the MMA and whether it is the delayed one. -/
def mmaFloor (p : Plane) (e : Env) (f : MmaF) : Int × Bool :=
  floorFrom f.fsrc.toNat f.fimm (if floorNeedsCtx f.fsrc.toNat then ctxGet p (mmaOctx e f) else none)
    (((ctxGet p f.actx.toNat).map ctxMaxe).getD (-256)) (((ctxGet p f.bctx.toNat).map ctxMaxe).getD (-256))

def mmaMismatch (p : Plane) (e : Env) (f : MmaF) : Bool :=
  match mmaWeights (getV p e.v) with
  | none => true
  | some w =>
    w.slot != e.s || w.bctx != f.bctx.toNat
      || (w.paired && !((fmtAt p f.actx.toNat).map isFp4).getD false) || (w.swapping && w.swapped)

def mmaRows (p : Plane) (e : Env) (f : MmaF) : List (List XVal) :=
  match fmtAt p f.actx.toNat with
  | none => []
  | some k => readLines p k (mmaBuf p e f).1 (mmaN f) f.m.toNat (16 * e.r32 f.g0r) (size0 (shAt p f.actx.toNat))

/-- Array steps of an MMA. -/
def mmaSteps (p : Plane) (e : Env) (f : MmaF) : Nat :=
  match mmaWeights (getV p e.v), (fmtAt p f.actx.toNat).bind fmtElem, (fmtAt p f.bctx.toNat).bind fmtElem with
  | some w, some ka, some kb =>
    let n := mmaN f
    let cols := w.cols.map (fun c => c.take n)
    (((mmaRows p e f).map (fun r => rowSteps2 ka kb w.paired n r cols)).sum + 1) / 2
  | _, _, _ => 0

def mmaPlan (f : MmaF) (p : Plane) (e : Env) : Plan :=
  let b := mmaBuf p e f
  let gs := mmaGroups f
  let x := getV p e.v
  let w := mmaWeights x
  let oc := if floorNeedsCtx f.fsrc.toNat then [(mmaOctx e f, Role.any)] else []
  { plan0 with
    head := rangeFault (decide (1 ≤ f.gcnt.toNat) && decide (f.gcnt.toNat ≤ 24))
      ++ tileFaults f.bgrp.toNat f.m.toNat ++ b.2 ++ lineFault p f.actx.toNat (16 * e.r32 f.g0r)
    ctxs := [(f.actx.toNat, .operand), (f.bctx.toNat, .operand)] ++ oc
    holds := if holdWaits p e [f.actx.toNat, f.bctx.toNat] then [7] else []
    gran := (w.map (fun w => w.g0 != e.r32 f.g0r || decide (w.gcnt < f.gcnt.toNat))).getD false
    check := firstOf [holdRead p e [f.actx.toNat, f.bctx.toNat],
      if mmaMismatch p e f then some (.weightMismatch, []) else none,
      if f.add then addFault x e.ep gs else none,
      if f.add then none else ovwFault x gs]
    flies := true
    groups := gs.map (fun g => (g, if f.add then .add else .ovw))
    rd := [b.1]
    keep := (w.map WLoad.regions).getD []
    arr := mmaSteps p e f }

/-- One input row against the weights: a cell for each of the 192 columns. -/
def mmaRow (w : WLoad) (g : Nat) (fl : Int) (row : Nat) (a : List XVal) : List Cell :=
  let as := (granulesOf a).take g
  (List.range 192).map (fun c =>
    match w.cols[c]? with
    | some b =>
      let r := rowDot fl as ((granulesOf b).take g)
      ⟨row, c, ⟨wrap136 r.q, r.g⟩, fl, r.nan, r.inf⟩
    | none => ⟨row, c, accZero, fl, 0, 0⟩)

def mmaMiss (w : WLoad) (g : Nat) (fl : Int) (rows : List (List XVal)) : Bool :=
  rows.any (fun a => w.cols.any (fun b => rowOver fl ((granulesOf a).take g) ((granulesOf b).take g)))

def mmaActivate (x : VEng) : VEng :=
  match x.shadow with
  | some w => { x with active := some w, shadow := none }
  | none => x

/-- The rows go into the tile. -/
def mmaEffect (f : MmaF) (e : Env) (id : Nat) (p : Plane) : Plane :=
  match (getV p e.v).active with
  | none => p
  | some w =>
    let fl := mmaFloor p e f
    let rows := mmaRows p e f
    let cells := (rows.zipIdx).flatMap (fun r => mmaRow w f.gcnt.toNat fl.1 (16 * f.bgrp.toNat + r.2) r.1)
    let gid := gidAt p (mmaOctx e f)
    let p := if fl.2 && mmaMiss w f.gcnt.toNat fl.1 rows then floorMiss p e gid else p
    let gs := mmaGroups f
    if f.add then plazaAdd e id 1 (if floorNeedsCtx f.fsrc.toNat then gid else 0) fl.1 .one gs cells p
    else plazaOvw e.v e.s e.ep gs fl.1 cells p

def mmaRun (f : MmaF) (p : Plane) (e : Env) (id : Nat) : Plane :=
  let p := modV p e.v mmaActivate
  checkedAdd e ⟨true, true⟩ (16 * f.bgrp.toNat) f.m.toNat (issueDesc p e (!f.add) (mmaFloor p e f).1)
    (mmaEffect f e id) p

/-! ## CONV (R173) -/

/-- FIELD_RANGE and BLOCK_ALIGN of a tile output, when the context is there. -/
def convShape (p : Plane) (e : Env) (f : ConvF) : List Code :=
  match ctxGet p f.octx.toNat with
  | none => []
  | some c =>
    match ctxFmt c with
    | none => []
    | some k =>
      let sh := shapeOf p c
      let s0 := max (size0 sh) 1
      let l0 := e.r36 f.lreg
      let m := f.m.toNat
      let n := f.ncol.toNat
      let last := l0 + (m - 1) * s0 + n
      rangeFault (decide (l0 % s0 + n ≤ s0) && decide (last ≤ elemsOf sh))
        ++ (if fmtIsBlock k && decide (l0 % s0 + n ≤ s0) && decide (last ≤ elemsOf sh)
              && (!wholeBlocks sh l0 s0 m n || (!f.dest && decide (sh.blkdim ≠ 0))) then [.blockAlign]
            else [])

def convDst (p : Plane) (e : Env) (f : ConvF) : BufAt × List Code :=
  bufResolve p e.v (e.r f.dreg) f.dbuf.toNat (f.m.toNat * unitsAt p f.octx.toNat f.ncol.toNat) .output

def convGroups (f : ConvF) : List Nat := tileGroups f.bgrp.toNat f.m.toNat

def convPlan (f : ConvF) (p : Plane) (e : Env) : Plan :=
  let gs := convGroups f
  let x := getV p e.v
  let id := f.octx.toNat
  let bias := biasSpan p e f.bir f.ncol.toNat
  let vec := f.bmode.toNat == 2
  let dst := convDst p e f
  { plan0 with
    ill := ocuIll f.act f.bmode
    head := rangeFault (decide (1 ≤ f.ncol.toNat) && decide (f.ncol.toNat ≤ 192))
      ++ tileFaults f.bgrp.toNat f.m.toNat ++ convShape p e f ++ (if vec then bias.2 else [])
      ++ (if f.dest then [] else dst.2)
    ctxs := [(id, .output)]
    outs := if f.dest then [id] else []
    holds := (if readWaits x gs then [3] else []) ++ (if sealHold p e id then [7] else [])
    check := readFault x gs
    flies := true
    memTrk := f.dest
    tag := some f.tag.toNat
    groups := gs.map (fun g => (g, .read))
    release := f.rel
    rd := if vec then [bias.1] else []
    wr := if f.dest then [] else [dst.1]
    ocu := (f.m.toNat * f.ncol.toNat + 191) / 192 }

/-- Elements of a CONV, one list for each row of the tile. -/
def convEls (p : Plane) (e : Env) (f : ConvF) : List (List OutVal) :=
  let s0 := size0 (shAt p f.octx.toNat)
  let l0 := e.r36 f.lreg
  let sc := scaleAt p e.pi f.sidx.toNat
  let bias := biasOf p e f.bmode f.bir f.ncol.toNat
  let rows := tileRows (getV p e.v) (16 * f.bgrp.toNat) f.m.toNat f.ncol.toNat
  (rows.zipIdx).map (fun r => (r.1.zipIdx).map (fun a =>
    let y := ocuY p e.pi f.act (accValue a.1.1 a.1.2) sc (bias a.2)
    (⟨l0 + r.2 * s0 + a.2, y.1, y.2, none⟩ : OutVal)))

/-- The rounding mode of an instruction that names a context for its output. -/
def modeAt (p : Plane) (rmo : BitVec 2) (id : Nat) : Nat := modeOf rmo ((ctxGet p id).getD 0)

def convEffect (f : ConvF) (e : Env) (fid : Nat) (p : Plane) : Plane :=
  let id := f.octx.toNat
  let gs := convGroups f
  let els := convEls p e f
  let mode := modeAt p f.rmo id
  let p := takePending p e.pi e.ep e.v gs id
  let p := if f.dest then emitMem p e fid id mode els.flatten else emitBuf p e id mode (convDst p e f).1 els
  if f.rel then releaseTile p e.v gs else p

def convRun (f : ConvF) (p : Plane) (e : Env) (id : Nat) : Plane :=
  checked e ⟨false, false⟩ (16 * f.bgrp.toNat) f.m.toNat (issueDesc p e false 0) (convEffect f e id) p

/-! ## EWISE (R174) -/

/-- FIELD_RANGE and BLOCK_ALIGN of a contiguous output range (R174, R175). -/
def lineShape (p : Plane) (id l0 n : Nat) (dest : Bool) : List Code :=
  match ctxGet p id with
  | none => []
  | some c =>
    match ctxFmt c with
    | none => []
    | some k =>
      let sh := shapeOf p c
      if l0 + n ≤ elemsOf sh then
        if fmtIsBlock k && (!lineBlocks sh l0 n || (!dest && decide (sh.blkdim ≠ 0))) then [.blockAlign] else []
      else [.fieldRange]

/-- Element of operand b that output element `j` takes. -/
def ewiseB (bbc l0 s0 j : Nat) : Nat :=
  match bbc with
  | 1 => 0
  | 2 => (l0 + j) / max s0 1 - l0 / max s0 1
  | _ => j

def ewiseN (e : Env) (f : EwiseF) : Nat := e.r32 f.nreg

/-- Elements of b that the line holds. -/
def ewiseNb (p : Plane) (e : Env) (f : EwiseF) : Nat :=
  let s0 := size0 (shAt p (e.rCtx f.cor))
  if ewiseN e f = 0 then 1 else max (ewiseB f.bbc.toNat (e.r36 f.lreg) s0 (ewiseN e f - 1) + 1) 1

def ewiseA (p : Plane) (e : Env) (f : EwiseF) : BufAt × List Code :=
  bufResolve p e.v (e.r f.areg) f.aoff.toNat (unitsAt p (e.rCtx f.car) (ewiseN e f)) .read
def ewiseBuf (p : Plane) (e : Env) (f : EwiseF) : BufAt × List Code :=
  bufResolve p e.v (e.r f.breg) f.boff.toNat (unitsAt p (e.rCtx f.cbr) (ewiseNb p e f)) .read
def ewiseDst (p : Plane) (e : Env) (f : EwiseF) : BufAt × List Code :=
  bufResolve p e.v (e.r f.dreg) 0 (unitsAt p (e.rCtx f.cor) (ewiseN e f)) .output

def ewisePlan (mov : Bool) (f : EwiseF) (p : Plane) (e : Env) : Plan :=
  let n := ewiseN e f
  let a := ewiseA p e f
  let b := ewiseBuf p e f
  let d := ewiseDst p e f
  let oc := e.rCtx f.cor
  let vec := f.bmode.toNat == 2
  let s0 := size0 (shAt p oc)
  let bias := biasSpan p e f.bir s0
  let ops := [e.rCtx f.car] ++ (if mov then [] else [e.rCtx f.cbr])
  { plan0 with
    ill := ocuIll f.act f.bmode || f.bbc.toNat == 3
    head := rangeFault (decide (1 ≤ n)) ++ lineShape p oc (e.r36 f.lreg) n f.dest ++ a.2
      ++ (if mov then [] else b.2) ++ (if f.dest then [] else d.2) ++ (if vec then bias.2 else [])
    ctxs := ops.map (fun c => (c, Role.operand)) ++ [(oc, .output)]
    outs := if f.dest then [oc] else []
    holds := if sealHold p e oc || holdWaits p e ops then [7] else []
    check := holdRead p e ops
    flies := true
    memTrk := f.dest
    tag := some f.tag.toNat
    rd := [a.1] ++ (if mov then [] else [b.1]) ++ (if vec then [bias.1] else [])
    wr := if f.dest then [] else [d.1]
    ocu := (n + 191) / 192 }

def lineVals (p : Plane) (id : Nat) (b : BufAt) (n : Nat) : List XVal :=
  match fmtAt p id with
  | some k => lineRead k n (bufGet p b (128 * lineUnits k n))
  | none => []

/-- Elements of an EWISE. -/
def ewiseEls (mov : Bool) (op : XVal → XVal → XVal) (f : EwiseF) (p : Plane) (e : Env) : List OutVal :=
  let n := ewiseN e f
  let l0 := e.r36 f.lreg
  let s0 := size0 (shAt p (e.rCtx f.cor))
  let av := lineVals p (e.rCtx f.car) (ewiseA p e f).1 n
  let bv := if mov then [] else lineVals p (e.rCtx f.cbr) (ewiseBuf p e f).1 (ewiseNb p e f)
  let sc := scaleAt p e.pi f.sidx.toNat
  let bias := biasOf p e f.bmode f.bir s0
  (av.zipIdx).map (fun a =>
    let v := if mov then a.1 else op a.1 (bv.getD (ewiseB f.bbc.toNat l0 s0 a.2) .nan)
    let y := ocuY p e.pi f.act v sc (bias ((l0 + a.2) % max s0 1))
    (⟨l0 + a.2, y.1, y.2, none⟩ : OutVal))

def ewiseRun (mov : Bool) (op : XVal → XVal → XVal) (f : EwiseF) (p : Plane) (e : Env) (fid : Nat) : Plane :=
  let oc := e.rCtx f.cor
  let els := ewiseEls mov op f p e
  let mode := modeAt p f.rmo oc
  if f.dest then emitMem p e fid oc mode els else emitBuf p e oc mode (ewiseDst p e f).1 [els]

/-! ## RED (R175) -/

def redLen (e : Env) (f : RedF) : Nat := e.r32 f.nreg
def redRows (e : Env) (f : RedF) : Nat := e.r32 f.mreg
def redK0 (e : Env) (f : RedF) : Nat := e.r32 f.kreg

/-- Units of one input line: elements, or winner records of 16 B. -/
def redUnits (p : Plane) (e : Env) (f : RedF) (recs : Bool) : Nat :=
  if recs then unitsOf (16 * redLen e f) else unitsAt p (e.rCtx f.car) (redLen e f)

def redIn (p : Plane) (e : Env) (f : RedF) (recs : Bool) : BufAt × List Code :=
  bufResolve p e.v (e.r f.areg) f.aoff.toNat (redRows e f * redUnits p e f recs) .read

/-- Head faults of a RED: those of its output and of its other operands apply also when L is 0 (R192). -/
def redHead (e : Env) (f : RedF) (inp out : List Code) : List Code :=
  let ok := decide (1 ≤ redRows e f) && decide (redRows e f ≤ 245760)
  rangeFault ok ++ (if redLen e f = 0 then [.redLength] else []) ++ (if ok then out else [])
    ++ (if ok && decide (redLen e f ≠ 0) then inp else [])

/-- Decoded input rows. A RED SUM adds the elements of its line also where k0 + L runs past the length of dimension 0
(log 139: DESIGN CHOICE, unsafe). -/
def redLines (p : Plane) (e : Env) (f : RedF) : List (List XVal) :=
  let id := e.rCtx f.car
  match fmtAt p id with
  | none => []
  | some k =>
    (List.range (redRows e f)).map (fun i =>
      lineVals p id (lineAt (redIn p e f false).1 i (lineUnits k (redLen e f))) (redLen e f))

/-! ### SUM -/

def sumTileRows (e : Env) (f : RedF) : Nat := (redRows e f + 191) / 192

def sumGroups (e : Env) (f : RedF) : List Nat := tileGroups f.bgrp.toNat (sumTileRows e f)

/-- E_B of the ones is 1. -/
def sumFloor (p : Plane) (e : Env) (f : RedF) : Int × Bool :=
  floorFrom f.fsrc.toNat f.fimm (if floorNeedsCtx f.fsrc.toNat then ctxGet p (e.rCtx f.cor) else none)
    (((ctxGet p (e.rCtx f.car)).map ctxMaxe).getD (-256)) 1

def sumPlan (f : RedF) (p : Plane) (e : Env) : Plan :=
  let b := redIn p e f false
  let gs := sumGroups e f
  let x := getV p e.v
  let car := e.rCtx f.car
  let oc := if floorNeedsCtx f.fsrc.toNat then [(e.rCtx f.cor, Role.any)] else []
  { plan0 with
    ill := f.form.toNat != 0
    head := redHead e f b.2 []
      ++ (if 1280 < 16 * f.bgrp.toNat + sumTileRows e f then [.plazaRange] else [])
      ++ lineFault p car (redK0 e f) ++ (if redK0 e f % 16 = 0 then [] else [.granuleMismatch])
    ctxs := [(car, .operand)] ++ oc
    holds := if holdWaits p e [car] then [7] else []
    check := firstOf [holdRead p e [car], if f.add then addFault x e.ep gs else none,
      if f.add then none else ovwFault x gs]
    flies := true
    tag := some f.tag.toNat
    groups := gs.map (fun g => (g, if f.add then .add else .ovw))
    rd := [b.1]
    ocu := (redRows e f * redLen e f + 191) / 192 }

def oneX : XVal := .fin ⟨1, 0⟩

def sumCell (fl : Int) (base i : Nat) (l : List XVal) : Cell :=
  let r := rowDot fl (granulesOf l) (granulesOf (List.replicate l.length oneX))
  ⟨base + i / 192, i % 192, ⟨wrap136 r.q, r.g⟩, fl, r.nan, r.inf⟩

def sumEffect (f : RedF) (e : Env) (id : Nat) (p : Plane) : Plane :=
  let fl := sumFloor p e f
  let rows := redLines p e f
  let cells := (rows.zipIdx).map (fun r => sumCell fl.1 (16 * f.bgrp.toNat) r.2 r.1)
  let gid := gidAt p (e.rCtx f.cor)
  let anyOver := rows.any (fun l => rowOver fl.1 (granulesOf l) (granulesOf (List.replicate l.length oneX)))
  let p := if fl.2 && anyOver then floorMiss p e gid else p
  let gs := sumGroups e f
  if f.add then plazaAdd e id 3 (if floorNeedsCtx f.fsrc.toNat then gid else 0) fl.1 .one gs cells p
  else plazaOvw e.v e.s e.ep gs fl.1 cells p

def sumRun (f : RedF) (p : Plane) (e : Env) (id : Nat) : Plane :=
  checkedAdd e ⟨false, true⟩ (16 * f.bgrp.toNat) (sumTileRows e f) (issueDesc p e (!f.add) (sumFloor p e f).1)
    (sumEffect f e id) p

/-! ### MAX and MIN -/

def redRecs (f : RedF) : Bool := bit f.form.toNat 1
def redFinal (f : RedF) : Bool := !bit f.form.toNat 0

def redDst (p : Plane) (e : Env) (f : RedF) : BufAt × List Code :=
  bufResolve p e.v (e.r f.dreg) 0
    (if redFinal f then unitsAt p (e.rCtx f.cor) (redRows e f) else unitsOf (16 * redRows e f)) .output

def redIdx (p : Plane) (e : Env) (f : RedF) : BufAt × List Code :=
  bufResolve p e.v (e.r f.ireg) 0 (unitsOf (4 * redRows e f)) .output

def winPlan (f : RedF) (p : Plane) (e : Env) : Plan :=
  let b := redIn p e f (redRecs f)
  let d := redDst p e f
  let x := redIdx p e f
  let car := e.rCtx f.car
  let oc := e.rCtx f.cor
  { plan0 with
    head := redHead e f b.2 ((if f.dest then [] else d.2 ++ (if redFinal f then x.2 else []))
        ++ (if redFinal f then lineShape p oc (e.r36 f.lreg) (redRows e f) f.dest else []))
      ++ (if redRecs f then [] else lineFault p car (redK0 e f))
    ctxs := (if redRecs f then [] else [(car, Role.operand)]) ++ (if redFinal f then [(oc, Role.output)] else [])
    outs := if f.dest && redFinal f then [oc] else []
    holds := if (redFinal f && sealHold p e oc) || (!redRecs f && holdWaits p e [car]) then [7] else []
    check := if redRecs f then none else holdRead p e [car]
    flies := true
    memTrk := f.dest
    tag := some f.tag.toNat
    rd := [b.1]
    wr := if f.dest then [] else [d.1] ++ (if redFinal f then [x.1] else [])
    ocu := (redRows e f * redLen e f + 191) / 192 }

/-- One winner per row (R28, R117). -/
def redWins (mx : Bool) (p : Plane) (e : Env) (f : RedF) : List Winner :=
  if redRecs f then
    let w := unitsOf (16 * redLen e f)
    (List.range (redRows e f)).map (fun i =>
      let bs := bufGet p (lineAt (redIn p e f true).1 i w) (16 * redLen e f)
      (winAll mx ((chunksOf 16 (redLen e f) bs).map winRead)).getD ⟨.nan, 0⟩)
  else
    (redLines p e f).map (fun l =>
      (winAll mx ((l.zipIdx).map (fun a => (⟨a.1, redK0 e f + a.2⟩ : Winner)))).getD ⟨.nan, 0⟩)

/-- Final elements of a MAX or MIN, and the bytes of its indices or winner records. -/
def winEls (mx : Bool) (f : RedF) (p : Plane) (e : Env) : List OutVal :=
  ((redWins mx p e f).zipIdx).map (fun w =>
    let y := ocuT32 w.1.v one32 0#32
    (⟨e.r36 f.lreg + w.2, y.1, y.2, none⟩ : OutVal))

def winIdx (mx : Bool) (f : RedF) (p : Plane) (e : Env) : List Byte :=
  (redWins mx p e f).flatMap (fun w => toLE 4 w.index)

def winRecs (mx : Bool) (f : RedF) (p : Plane) (e : Env) : List Byte := (redWins mx p e f).flatMap winBytes

def winRun (mx : Bool) (f : RedF) (p : Plane) (e : Env) (fid : Nat) : Plane :=
  if redFinal f then
    let oc := e.rCtx f.cor
    let els := winEls mx f p e
    let idx := winIdx mx f p e
    let mode := modeAt p f.rmo oc
    if f.dest then writeReqs (emitMem p e fid oc mode els) e.pi e.v e.s fid (addr52 (e.r f.ireg)) idx
    else bufPut (emitBuf p e oc mode (redDst p e f).1 [els]) (redIdx p e f).1 (padUnit idx)
  else
    let bs := winRecs mx f p e
    if f.dest then writeReqs p e.pi e.v e.s fid (addr52 (e.r f.dreg)) bs
    else bufPut p (redDst p e f).1 (padUnit bs)

end Sys2Proof.Machine
end

