-- ==== Sys2Proof/Machine/Scalar.lean ====
section
/-! DEFINITION. Meanings of the scalar and control-flow instructions (R183 to R185). -/

namespace Sys2Proof.Machine

/-- A register of the issuing task takes a value. -/
def setReg (p : Plane) (e : Env) (r : BitVec 5) (v : Nat) : Plane :=
  modT p e.v e.s (fun t => { t with regs := rPut t.regs r v })

def setPred (p : Plane) (e : Env) (k : BitVec 3) (b : Bool) : Plane :=
  modT p e.v e.s (fun t => { t with regs := pPut t.regs k b })

/-- s[SD] takes op s[SA] b. -/
def aluRun (op : U64 → U64 → U64) (f : AluF) (p : Plane) (e : Env) (_ : Nat) : Plane :=
  setReg p e f.sd (op (aluA e.t.regs f.sa) (aluB e.t.regs f.sb f.i f.imm)).toNat

def planNone (_ : Plane) (_ : Env) : Plan := plan0

def rdspecPlan (f : AluF) (_ : Plane) (e : Env) : Plan :=
  { plan0 with
    head := if (aluB e.t.regs f.sb f.i f.imm).toNat < 3 then [] else [.fieldRange] }

/-- RDSPEC: virtual engine, task slot, current epoch. -/
def rdspecVal (e : Env) (b : Nat) : Nat :=
  match b with
  | 0 => e.v
  | 1 => e.s
  | _ => epochNo e.ep

def rdspecRun (f : AluF) (p : Plane) (e : Env) (_ : Nat) : Plane :=
  setReg p e f.sd (rdspecVal e (aluB e.t.regs f.sb f.i f.imm).toNat)

/-! ## SETP -/

/-- The value p[PD] takes; none for a reserved CMP or COMB. -/
def setpValue (f : SetpF) (e : Env) : Option Bool :=
  (setpCmp f.cmp (aluA e.t.regs f.sa) (aluB e.t.regs f.sb f.i f.imm)).bind
    (setpComb f.comb (pGet e.t.regs f.pd))

def setpPlan (f : SetpF) (_ : Plane) (e : Env) : Plan := { plan0 with ill := (setpValue f e).isNone }

def setpRun (f : SetpF) (p : Plane) (e : Env) (_ : Nat) : Plane :=
  setPred p e f.pd ((setpValue f e).getD false)

/-! ## BR, LOOP -/

/-- The branch target, computed without wrap (R184). -/
def brTarget (f : BrF) (e : Env) : Int :=
  if f.ind then ((e.r f.sr % 2 ^ 20 : Nat) : Int) else (e.t.regs.pc : Int) + 1 + f.off.toInt

def brPlan (f : BrF) (p : Plane) (e : Env) : Plan :=
  let t := brTarget f e
  { plan0 with
    head := if 0 ≤ t ∧ t < (ninsnOf p e.v : Int) then [] else [.branchRange]
    jump := some t.toNat }

def runNone (p : Plane) (_ : Env) (_ : Nat) : Plane := p

/-- (log 44: DESIGN CHOICE, unsafe) -/
def loopPlan (f : LoopF) (p : Plane) (e : Env) : Plan :=
  { plan0 with
    head := (if f.len.toNat = 0 then [.fieldRange] else [])
      ++ (if ninsnOf p e.v ≤ e.t.regs.pc + f.len.toNat then [.branchRange] else [])
      ++ (if 4 ≤ e.t.regs.loops.length then [.loopDepth] else [])
    skip := if e.r32 f.creg = 0 then 1 + f.len.toNat else 1 }

def loopRun (f : LoopF) (p : Plane) (e : Env) (_ : Nat) : Plane :=
  if e.r32 f.creg = 0 then p
  else
    modT p e.v e.s (fun t =>
      { t with regs := { t.regs with
          loops := ⟨e.t.regs.pc + 1, e.t.regs.pc + f.len.toNat, e.r32 f.creg - 1⟩ :: t.regs.loops } })

/-! ## YIELD, HALT -/

/-- A slot whose last instruction has retired becomes FREE (R163, R165). -/
def slotIdle (p : Plane) (v s : Nat) : Bool := !p.flights.any (fun f => f.veng == v && f.slot == s)

def haltPlan (_ : Plane) (e : Env) : Plan :=
  { plan0 with
    check := if e.t.failTags = 0 then none else some (.xferFailed, [])
    skip := 0 }

def haltRun (p : Plane) (e : Env) (_ : Nat) : Plane :=
  modT p e.v e.s (fun t => { t with st := .ending, byHalt := true })

end Sys2Proof.Machine
end

