-- ==== Sys2Proof/Machine/Transfer.lean ====
section
/-! DEFINITION. Transfers between memory, the operand buffer and the Plaza: LOAD, STORE, XLOAD, XSTORE,
XTLOAD, XTSTORE, SQUARE (R49 to R54, R93, R94, R103, R177, R178, R194). A load takes effect when it
completes; a store's bytes land when it issues (log 11: DESIGN CHOICE, unsafe). -/

namespace Sys2Proof.Machine

/-- Memory address of an XFER (R169). -/
def xAddr (e : Env) (f : XferF) : Nat := memAddr (e.r f.mreg) f.moff

def alignFault (a n : Nat) : List Code := if a % n = 0 then [] else [.memAlign]

def memPlan (f : XferF) : Plan :=
  { plan0 with
    flies := true
    memTrk := true
    tag := some f.tag.toNat }

/-! ## LOAD and STORE -/

def copyBuf (use : BufUse) (p : Plane) (e : Env) (f : XferF) : BufAt × List Code :=
  bufResolve p e.v (e.r f.breg) f.boff.toNat (unitsOf f.len.toNat) use

def copyPlan (use : BufUse) (f : XferF) (p : Plane) (e : Env) : Plan :=
  let n := f.len.toNat
  let b := copyBuf use p e f
  { memPlan f with
    head := rangeFault (decide (1 ≤ n) && decide (n ≤ halfBytes))
      ++ (if (reqList (xAddr e f) n).all (fun r => inWindow p e.pi r.1 r.2) then [] else [.memWindow]) ++ b.2
    rd := if use = .read then [b.1] else []
    wr := if use = .read then [] else [b.1] }

def loadRun (f : XferF) (p : Plane) (e : Env) (id : Nat) : Plane :=
  let b := (copyBuf .fill p e f).1
  let p := modFlight p id (fun x =>
    { x with finish := .load (xAddr e f) f.len.toNat b.veng (b.half * halfBytes + 128 * b.unit) })
  readReqs p e.pi e.v e.s id (xAddr e f) f.len.toNat

def storeRun (f : XferF) (p : Plane) (e : Env) (id : Nat) : Plane :=
  writeReqs p e.pi e.v e.s id (xAddr e f) (bufGet p (copyBuf .read p e f).1 f.len.toNat)

/-- A byte that a failed request would have filled stays as it was (R194). -/
def isBad (bad : List (Nat × Nat)) (a n : Nat) : Bool :=
  bad.any (fun r => decide (r.1 < a + n) && decide (a < r.1 + r.2))

def patchBytes (bad : List (Nat × Nat)) (a : Nat) (old new : List Byte) : List Byte :=
  ((old.zip new).zipIdx).map (fun x => if isBad bad (a + x.2) 1 then x.1.1 else x.1.2)

/-- Completion of a LOAD: `n` bytes of memory at `a` to byte `b` of an engine's buffer; the rest of the
last unit is 0. -/
def finishLoad (bad : List (Nat × Nat)) (a n v b : Nat) (p : Plane) : Plane :=
  let new := padUnit (memAt p a n)
  bufWrite p v 0 b (patchBytes bad a (bufRead p v 0 b new.length) new)

/-! ## XLOAD and XTLOAD -/

def exactGroups (f : XferF) : List Nat := tileGroups f.bgrp.toNat f.m.toNat

def exactLoadPlan (f : XferF) (p : Plane) (e : Env) : Plan :=
  let gs := exactGroups f
  let x := getV p e.v
  { memPlan f with
    head := alignFault (xAddr e f) 8 ++ tileFaults f.bgrp.toNat f.m.toNat
    check := if f.add then addFault x e.ep gs else ovwFault x gs
    groups := gs.map (fun g => (g, if f.add then .add else .ovw)) }

def xloadRun (image : Bool) (f : XferF) (p : Plane) (e : Env) (id : Nat) : Plane :=
  let a := xAddr e f
  let n := if image then
      let h := memAt p a 16
      let cnt := leNat ((h.drop 4).take 4)
      let size := leNat ((h.drop 8).take 8)
      if cnt ≤ f.m.toNat * 192 ∧ size ≤ 16 + 652 * ((cnt + 31) / 32) then max size 16 else 16
    else f.m.toNat * 4608
  let p := modFlight p id (fun x =>
    { x with finish := .xload image a f.bgrp.toNat f.m.toNat f.add })
  readReqs p e.pi e.v e.s id a n

/-- The environment of an instruction in flight, with what its completion meets. -/
def envFlight (p : Plane) (f : Flight) (ev : List ArrayEvent) : Env := envTask p f.veng f.slot f.part f.epoch ev

/-- ADD of what a load brought, under the checks of the Plaza adder (R98, R101). -/
def loadAdd (e : Env) (fid bgrp m : Nat) (f : Int) (k : Floors) (cells : List Cell) (p : Plane) : Plane :=
  checkedAdd e ⟨false, true⟩ (16 * bgrp) m (groupBytes (getV p e.v)) (plazaAdd e fid 2 0 f k (tileGroups bgrp m) cells) p

/-- Cell `j` of a tile whose first row is `base`. -/
def cellAt (base j : Nat) (a : Acc) (fl : Int) : Cell := ⟨base + j / 192, j % 192, a, fl, 0, 0⟩

/-- The floor that an ADD into the group must carry. -/
def groupFloor (x : VEng) (g : Nat) : Int :=
  match (getG x g).st with
  | .square q => ((spGet x.squares q).map Square.f).getD 0
  | _ => (getG x g).f

/-- The elements loaded; one that a failed request would have filled adds nothing, or keeps the entry
that it would have replaced. -/
def loadedCells (x : VEng) (bad : List (Nat × Nat)) (a base : Nat) (add : Bool) (els : List (Acc × Int)) :
    List Cell :=
  (els.zipIdx).map (fun w =>
    let c := cellAt base w.2 w.1.1 w.1.2
    if isBad bad (a + 24 * w.2) 24 then
      if add then { c with acc := accZero, f := groupFloor x (c.row / 16) }
      else { c with acc := getAcc x c.row c.col }
    else c)

/-- Completion of an XLOAD: under OVW the first element gives F, and one that differs is not loaded
(R50, R93). (log 72: DESIGN CHOICE, unsafe) (log 75: DEDUCED, safe) -/
def finishXload (bad : List (Nat × Nat)) (e : Env) (fid a bgrp m : Nat) (add : Bool) (p : Plane) : Plane :=
  let x := getV p e.v
  let els := (chunksOf 24 (m * 192) (memAt p a (m * 4608))).map xaf136Read
  let cells := loadedCells x bad a (16 * bgrp) add els
  let gs := tileGroups bgrp m
  if add then loadAdd e fid bgrp m 0 .own cells p
  else
    let fl := ((els.map Prod.snd).headD 0)
    let p := (cells.filter (fun c => c.f != fl)).foldl (fun p c =>
      floorMismatch p e.pi e.ep e.v e.s e.src 0 0 c.f 0xFFFFFFFF) p
    plazaOvw e.v e.s e.ep gs fl (cells.filter (fun c => c.f == fl)) p

/-- A well-formed XAF-T image: F and the groups (R54). -/
def readImage (p : Plane) (a most : Nat) : Option (Int × List XaftGroup) :=
  let h := memAt p a 16
  let fl := signed 16 (leNat (h.take 2))
  let n := leNat ((h.drop 4).take 4)
  let size := leNat ((h.drop 8).take 8)
  if fl < -512 ∨ 511 < fl ∨ most < n ∨ size < 16 ∨ 16 + 652 * ((n + 31) / 32) < size then none
  else ((xaftParts n n (memAt p (a + 16) (size - 16))).filter (floAgrees fl)).map (fun l => (fl, l))

/-- The groups of an image's body with their first entry and first byte. -/
def placed : Nat → Nat → List XaftGroup → List (Nat × Nat × XaftGroup)
  | _, _, [] => []
  | k, a, g :: t => (k, a, g) :: placed (k + g.accs.length) (a + g.size) t

/-- A failed request would have filled entry `j` of the image at `a`: it holds the image header, the header of the
entry's group or of an earlier one, a limb of the entry or its group's special word. (log 75: DEDUCED, safe) -/
def entryLost (bad : List (Nat × Nat)) (a j : Nat) (gs : List XaftGroup) : Bool :=
  isBad bad a 16 || (placed 0 (a + 16) gs).any (fun x =>
    let w := 4 * x.2.2.limbs
    let n := x.2.2.accs.length
    let limb := x.2.1 + 4 + (j - x.1) * w
    let tail := x.2.1 + 4 + n * w
    decide (x.1 ≤ j) && (isBad bad x.2.1 4
      || (decide (j < x.1 + n) && (isBad bad limb w || isBad bad tail (x.2.1 + x.2.2.size - tail)))))

/-- Completion of an XTLOAD. (log 73: DEDUCED, unsafe) -/
def finishXtload (bad : List (Nat × Nat)) (e : Env) (fid a bgrp m : Nat) (add : Bool) (p : Plane) : Plane :=
  match readImage p a (m * 192) with
  | none =>
    raise (failFlight p fid []) .xafFormat e.src (some e.pi)
      (dExec e.v e.s 0 0 (signed 16 (memNatAt p a 2)) 0 0) []
  | some (fl, lay) =>
    let gs := tileGroups bgrp m
    let x := getV p e.v
    let cells := ((lay.flatMap XaftGroup.accs).zipIdx).map (fun w =>
      let c := cellAt (16 * bgrp) w.2 w.1 fl
      if !entryLost bad a w.2 lay then c
      else if add then { c with acc := accZero } else { c with acc := getAcc x c.row c.col })
    if add then loadAdd e fid bgrp m fl (.image (16 * bgrp) m) cells p else plazaOvw e.v e.s e.ep gs fl cells p

/-! ## XSTORE and XTSTORE -/

def exactStorePlan (mem : Bool) (f : XferF) (p : Plane) (e : Env) : Plan :=
  let gs := exactGroups f
  let x := getV p e.v
  { memPlan f with
    head := (if mem then alignFault (xAddr e f) 8 else []) ++ tileFaults f.bgrp.toNat f.m.toNat
    ctxs := [(e.rCtx f.creg, .any)]
    holds := if readWaits x gs then [3] else []
    check := readFault x gs
    memTrk := mem
    groups := gs.map (fun g => (g, .read))
    release := f.rel }

def exactRows (p : Plane) (e : Env) (f : XferF) : List (Acc × Int) :=
  (tileRows (getV p e.v) (16 * f.bgrp.toNat) f.m.toNat 192).flatten

/-- Pending counts move, and with RELEASE the groups are freed. -/
def exactRead (p : Plane) (e : Env) (f : XferF) : Plane :=
  let gs := exactGroups f
  let p := takePending p e.pi e.ep e.v gs (e.rCtx f.creg)
  if f.rel then releaseTile p e.v gs else p

/-- An XAF-T image has one F: that of the tile's first group, also where its groups have several floors (log 31:
DESIGN CHOICE, unsafe). -/
def xstoreBytes (image : Bool) (els : List (Acc × Int)) : List Byte :=
  if image then xaftImage ((els.map Prod.snd).headD 0) (els.map Prod.fst)
  else els.flatMap (fun x => xaf136Bytes x.1 x.2)

/-- The tile is read under the Plaza's checks (R102). -/
def checkedRead (p : Plane) (e : Env) (f : XferF) (run : Plane → Plane) : Plane :=
  checked e ⟨false, false⟩ (16 * f.bgrp.toNat) f.m.toNat (issueDesc p e false 0) run p

def xstoreRun (image : Bool) (f : XferF) (p : Plane) (e : Env) (id : Nat) : Plane :=
  checkedRead p e f (fun p =>
    writeReqs (exactRead p e f) e.pi e.v e.s id (xAddr e f) (xstoreBytes image (exactRows p e f)))

/-! ## SQUARE (R103) -/

/-- The floor source: 1 auto, 2 delayed, 3 immediate. -/
def squareSrc (f : XferF) (c : Cx) : Nat := if f.fsrc.toNat = 0 then ctxFloorSrc c + 1 else f.fsrc.toNat

def squareFloor (f : XferF) (c : Cx) : Int :=
  (floorFrom f.fsrc.toNat (BitVec.ofNat 10 f.len.toNat) (some c) 0 0).1

/-- Squares of the partition's engines that are OPEN or CLOSED, as (engine, index, record). -/
def liveSquares (p : Plane) (i : Nat) : List (Nat × Nat × Square) :=
  (partVengs p i).flatMap (fun v =>
    ((getV p v).squares.filter (fun s => s.2.st ≠ .released)).map (fun s => (v, s.1, s.2)))

def squareOverlap (p : Plane) (i n gid lo len : Nat) : Option (Nat × Nat × Square) :=
  (liveSquares p i).find? (fun s =>
    s.2.2.gid == gid && s.2.2.epoch == n && decide (s.2.2.offset < lo + len)
      && decide (lo < s.2.2.offset + squareExtent s.2.2))

def squareFault (f : XferF) (p : Plane) (e : Env) : Option (Code × List Byte) :=
  match ctxGet p (e.rCtx f.creg) with
  | none => none
  | some c =>
    let off := e.r36 f.xreg
    let len := f.m.toNat * 192
    match squareOverlap p e.pi e.ep (ctxGid c) off len with
    | some s => some (.squareDecl, squareImage s.2.1 s.2.2)
    | none =>
      if squareSrc f c = 1 ∨ e.r f.mreg % 2 ^ 16 = 0 ∨ 2 ^ 36 < off + len then some (.squareDecl, [])
      else if 32 ≤ (getV p e.v).squares.length then some (.squareFull, []) else none

/-- (log 74: DESIGN CHOICE, unsafe) -/
def squarePlan (f : XferF) (p : Plane) (e : Env) : Plan :=
  let gs := exactGroups f
  { memPlan f with
    head := tileFaults f.bgrp.toNat f.m.toNat
    ctxs := [(e.rCtx f.creg, .any)]
    check := firstOf [groupFault (getV p e.v) gs .plazaState (fun g => g.st != .free), squareFault f p e]
    memTrk := false
    groups := gs.map (fun g => (g, .ovw))
    finish := .square }

def squareGroup (s q n : Nat) (f : Int) (x : VEng) (g : Nat) : VEng :=
  setG (clearGroup x g) g ⟨.square q, s, false, f, 0, 0, n, none⟩

def squareRun (f : XferF) (p : Plane) (e : Env) (_ : Nat) : Plane :=
  let id := e.rCtx f.creg
  match ctxGet p id with
  | none => p
  | some c =>
    let x := getV p e.v
    let q := ((upTo 32 (fun k => (spGet x.squares k).isNone)).headD 0)
    let fl := squareFloor f c
    let sq : Square :=
      { st := .opened
        owner := e.s
        m := f.m.toNat
        baseGrp := f.bgrp.toNat
        f := fl
        closeCnt := e.r f.mreg % 2 ^ 16
        gid := ctxGid c
        ctx := id
        offset := e.r36 f.xreg
        tally := 0
        epoch := e.ep
        late := 0
        claim := 0
        dkey := dkeyAt p e.pi (ctxDKey c) }
    modV p e.v (fun x =>
      { (exactGroups f).foldl (squareGroup e.s q e.ep fl) x with squares := spPut x.squares q sq })

end Sys2Proof.Machine
end

