-- ==== Sys2Proof/Machine/Stream.lean ====
section
/-! DEFINITION. Handoff queues (R146 to R148), streams (R141 to R145), the Row Directory (R149 to R151),
mutual waits (R160), and how contributions into Squares are counted (R106). -/

namespace Sys2Proof.Machine

/-! ## Queues -/

/-- A queue in use by a partition. -/
def hqOk (p : Plane) (i q : Nat) : Bool := (getQ p q).en && (getQ p q).part == i

/-- The image of a queue descriptor (R147). -/
def hqImage (q : Hq) : Nat :=
  q.head + q.items.length * 2 ^ 8 + (if q.en then 2 ^ 20 else 0) + q.part * 2 ^ 21 + q.puts * 2 ^ 32

def hqPop (p : Plane) (q : Nat) : Plane :=
  let x := getQ p q
  setQ p q { x with
    items := x.items.drop 1
    head := (x.head + 1) % 32 }

def hqFull (p : Plane) (q : Nat) : Bool := decide (32 ≤ (getQ p q).items.length)

/-- A handle's fields; its reserved bits read 0 (R6, R146). -/
def handleWord (h : Nat) : Nat := h &&& maskOf [(31, 28), (25, 19), (14, 0)]

def hqPush (p : Plane) (q h : Nat) : Plane :=
  let x := getQ p q
  setQ p q { x with
    items := x.items ++ [handleWord h]
    puts := (x.puts + 1) % 2 ^ 32 }

/-! ## Counting into Squares (R106, R231) -/

/-- Entries counted into a Square with their digest. -/
def countSquare (v q n d : Nat) (p : Plane) : Plane :=
  modSq p v q (fun s => { s with
    tally := s.tally + n
    claim := digestAdd s.claim d })

/-! ## Stream contexts (R141) -/

/-- A context at reset: RESV reads 1. -/
def idleImg : BitVec 512 := BitVec.ofNat 512 (2 ^ 196)

def streamInit : Stream := streamStarted idleImg 0 0 0

def getS (p : Plane) (n : Nat) : Stream := spGetD p.streams n streamInit
def setS (p : Plane) (n : Nat) (s : Stream) : Plane := { p with streams := spPut p.streams n s }
def modS (p : Plane) (n : Nat) (f : Stream → Stream) : Plane := setS p n (f (getS p n))

def sState (s : Stream) : Nat := fld s.img 190 189
def sKind (s : Stream) : Nat := fld s.img 193 191
def sResv (s : Stream) : Nat := fld s.img 198 196
def sPrio (s : Stream) : Nat := fld s.img 195 194
def sFree (s : Stream) : Nat := fld s.img 210 203
def sOut (s : Stream) : Nat := fld s.img 218 211
def sIn (s : Stream) : Nat := fld s.img 226 219
def sPart (s : Stream) : Nat := fld s.img 182 180
def sDone (s : Stream) : Nat := fld s.img 447 416
def sCount (s : Stream) : Nat := fld s.img 415 384
def sRowBytes (s : Stream) : Nat := 64 * fld s.img 247 238
def sRows (s : Stream) : Nat := fld s.img 179 148
def sTable (s : Stream) (v : Nat) : Nat := fld s.img 351 300 + sRowBytes s * v
def sRowId (s : Stream) (v : Nat) : Nat := (fld s.img 383 352 + v) % 2 ^ 32

def setState (s : Stream) (k : Nat) : Stream := { s with img := setFld s.img 190 189 k }
def setDone (s : Stream) (k : Nat) : Stream := { s with img := setFld s.img 447 416 k }

/-- Image bits that software writes. -/
def streamRw : Nat := maskOf [(415, 191), (179, 148)]

def streamImage (img v i : Nat) : BitVec 512 :=
  setFld (setFld (setFld (BitVec.ofNat 512 (img &&& streamRw)) 190 189 1) 188 183 v) 182 180 i

/-- Every row is processed and every buffer passed on. -/
def streamDone (s : Stream) : Bool :=
  s.stopped || (decide (sCount s ≤ sDone s) && decide (s.held.length ≤ sResv s) && s.spilled.isEmpty)

/-- Length of the buffer a handle names; a gather's is no more than BUF_LC names (log 77: DESIGN CHOICE, safe). -/
def streamLen (s : Stream) (h : Nat) : Nat :=
  if sKind s < 2 then 128 * 2 ^ min (fld s.img 202 199) (hClass h) else 128 * hUnits h

/-- Rows that a buffer holds. -/
def bufRows (s : Stream) (len : Nat) : Nat := len / max (sRowBytes s) 1

/-- HANDLE_RANGE of a stream action: the stream goes no further. -/
def streamBad (p : Plane) (n : Nat) (c : Code) : Plane :=
  let s := getS p n
  let p := modS p n (fun s => { s with stopped := true })
  raise p c (homePort p s.owner) (some (sPart s)) (dInstr s.owner s.slot 0 0 (toLE 64 s.img.toNat)) [.pn (sPart s) 3]

/-- Take a handle of a queue into the stream; it waits while the queue is empty, not in use or another partition's
(log 77: DESIGN CHOICE, safe). -/
def streamTake (p : Plane) (n q : Nat) : Plane :=
  let s := getS p n
  match (getQ p q).items with
  | [] => p
  | h :: _ =>
    if !hqOk p (sPart s) q then p
    else if handleOk p h then modS (hqPop p q) n (fun s => { s with
      held := s.held ++ [h]
      rows := 0
      lim := bufRows s (streamLen s h) })
    else streamBad p n .handleRange

/-- Take what the reserved minimum still lacks (R142); with RESV = 0 that is nothing (log 77: DESIGN CHOICE, safe). -/
def streamReady (p : Plane) (n : Nat) : Plane :=
  if (getS p n).ready || (getS p n).stopped then p
  else
    let p := forN 7 p (fun p _ =>
      if (getS p n).held.length < sResv (getS p n) ∧ !(getS p n).stopped then streamTake p n (sFree (getS p n)) else p)
    modS p n (fun s => { s with ready := decide (sResv s ≤ s.held.length) })

/-- The buffer being worked on: one beyond the reserved minimum, whose handles stay empty until the stream ends
(log 77: DESIGN CHOICE, safe). -/
def current (s : Stream) : Option Nat := s.held[sResv s]?

/-- The current buffer goes to a queue when there is room (R143, R144). -/
def streamPass (p : Plane) (n q : Nat) : Plane :=
  match current (getS p n) with
  | none => p
  | some h =>
    if hqOk p (sPart (getS p n)) q && !hqFull p q then
      modS (hqPush p q h) n (fun s => { s with
        held := s.held.take (sResv s)
        rows := 0 })
    else p

/-! ## Resident rows (R149) -/

/-- Address in the buffer of byte `o` of the RES part. -/
def resByte (c : U32) (o : Nat) : Nat :=
  let n := cfgRes c * 65536
  if o < n then halfBytes - n + o else 2 * halfBytes - n + (o - n)

def resRead (p : Plane) (v o n : Nat) : List Byte :=
  let c := (getV p v).bufCfg
  (List.range n).flatMap (fun k => bufRead p v 0 (resByte c (o + k)) 1)

def resWrite (p : Plane) (v o : Nat) (bs : List Byte) : Plane :=
  let c := (getV p v).bufCfg
  (bs.zipIdx).foldl (fun p b => bufWrite p v 0 (resByte c (o + b.2)) [b.1]) p

def rdEntry (p : Plane) (row : Nat) : U32 := spGetD p.rowDir (row % 2 ^ 22) 0#32

def setRd (p : Plane) (row : Nat) (x : U32) : Plane :=
  { p with rowDir := spSet 0#32 p.rowDir (row % 2 ^ 22) x }

/-- Engine and slot of a resident row. -/
def rdHit (p : Plane) (row : Nat) : Option (Nat × Nat) :=
  let w := rdEntry p row
  if bit w.toNat 31 && fld w 30 21 == row / 2 ^ 22 then some (fld w 20 15, fld w 14 0) else none

/-! ## Indices (R145) -/

/-- The requests of a stream's access that fail: outside the windows, or by the host's answer, which comes with the
command (log 24: DESIGN CHOICE, unsafe). -/
def streamBadReqs (p : Plane) (s : Stream) (fails : Fails) (a n : Nat) : List (Nat × Nat) :=
  (reqList a n).filter (fun r => !inWindow p (sPart s) r.1 r.2) ++ failedReqs fails a n

def streamErrors (s : Stream) (bad : List (Nat × Nat)) (p : Plane) : Plane :=
  bad.foldl (fun p r => memError p s.owner s.slot (some (sPart s)) r.1 0 (homePort p s.owner)) p

/-- The index word at the position of the stream. -/
def streamIndex (p : Plane) (s : Stream) : Nat := memNatAt p (fld s.img 299 248 + 4 * sDone s) 4

def badIndex (p : Plane) (n v : Nat) : Plane :=
  let s := getS p n
  let p := modS p n (fun s => { s with stopped := true })
  raise p .streamIndex (homePort p s.owner) (some (sPart s)) (dExec s.owner s.slot 0 v 0 0 0)
    [.count (sPart s) s.epoch .index]

/-! ## Gather (R143) -/

/-- The row's bytes, from the Row Directory or from memory; none when memory cannot be read. -/
def gatherRow (fails : Fails) (p : Plane) (n v : Nat) : Plane × Option (List Byte) :=
  let s := getS p n
  let len := sRowBytes s
  let mem (p : Plane) : Plane × Option (List Byte) :=
    match streamBadReqs p s fails (sTable s v) len with
    | [] => (p, some (memAt p (sTable s v) len))
    | bad => (streamErrors s bad p, none)
  if sKind s = 1 then
    let p := stallP p 2 1
    match rdHit p (sRowId s v) with
    | some es =>
      (modS (stallP p 3 1) n (fun s => { s with img := satHit s.img }), some (resRead p es.1 (len * es.2) len))
    | none => mem (modS p n (fun s => { s with img := satMiss s.img }))
  else mem p
where
  satHit (w : BitVec 512) : BitVec 512 := setFld w 479 448 (sat32 (fld w 479 448) 1)
  satMiss (w : BitVec 512) : BitVec 512 := setFld w 511 480 (sat32 (fld w 511 480) 1)

/-- The current buffer is full, or the last index is processed. -/
def bufFull (s : Stream) : Bool := (current s).isSome && (decide (s.lim ≤ s.rows) || decide (sCount s ≤ sDone s))

/-- Address of a place in the mutual-wait area of an engine. -/
def mwAddr (p : Plane) (v off : Nat) : Nat := spillAddr p v (12582912 + off)

/-- Take the next handle of the pool and refill it from the youngest spilled buffer, as far as rows fit (R160). -/
def refill (p : Plane) (n : Nat) : Plane :=
  let p := streamTake p n (sFree (getS p n))
  let s := getS p n
  match current s, s.spilled with
  | some h, m :: t =>
    let k := min s.lim ((m.hi - m.lo) / max (sRowBytes s) 1)
    let p := bufPut p (handleAt h) (memAt p (mwAddr p m.veng (m.offset + m.lo)) (k * sRowBytes s))
    let lo := m.lo + k * sRowBytes s
    let gather := sKind s < 2
    modS p n (fun s => { s with
      rows := if gather then k else 0
      lim := if gather then s.lim else k
      spilled := if lo < m.hi then { m with lo := lo } :: t else t })
  | _, _ => p

/-- A next buffer: a spilled one first, else one of queue `q` while an index is left. -/
def nextBuf (p : Plane) (n q : Nat) : Plane :=
  let s := getS p n
  if (current s).isSome then p
  else if s.spilled ≠ [] then refill p n
  else if sDone s < sCount s then streamTake p n q
  else p

def gatherIndex (fails : Fails) (p : Plane) (n : Nat) : Plane :=
  let s := getS p n
  match current s with
  | none => p
  | some h =>
    if sCount s ≤ sDone s ∨ s.stopped then p
    else
      let v := streamIndex p s
      if sRows s ≤ v then badIndex p n v
      else
        let r := gatherRow fails p n v
        let p := match r.2 with
          | none => r.1
          | some bs =>
            let b := handleAt h
            bufWrite r.1 b.veng b.half (128 * b.unit + s.rows * sRowBytes s) bs
        modS p n (fun s => setDone { s with rows := s.rows + 1 } (sDone s + 1))

def streamRuns (s : Stream) : Bool := sState s == 1 && !s.stopped

/-- A row reaches the stream's buffer. (log 77: DESIGN CHOICE, safe) -/
def gatherStep (fails : Fails) (n : Nat) (p : Plane) : Plane :=
  if !(streamRuns (getS p n) && decide (sKind (getS p n) < 2)) then p
  else
    let p := streamReady p n
    if !(getS p n).ready then p
    else
      let pass (p : Plane) : Plane := if bufFull (getS p n) then streamPass p n (sOut (getS p n)) else p
      let p := nextBuf (pass p) n (sFree (getS p n))
      if bufFull (getS p n) then pass p else pass (gatherIndex fails (countRetries (homePort p (getS p n).owner) fails p) n)

def execGatherRowArrive (n : BitVec 12) (fails : Fails) (s : State) : Host.Outcome State Fault Refusal :=
  onPlane s (onReady (gatherStep fails n.toNat))

/-! ## Scatter-add (R144) -/

/-- Exact entries of a row of the filled buffer. -/
def bufEntries (p : Plane) (h off n : Nat) : List (Acc × Int) :=
  let b := handleAt h
  (chunksOf 24 n (bufRead p b.veng b.half (128 * b.unit + off) (24 * n))).map xaf136Read

/-- ADD of exact entries, each with its own floor, into one Plaza row, counted at once (R92, R95, R106). -/
def addRow (e : Env) (row : Nat) (els : List (Acc × Int)) (p : Plane) : Plane :=
  let id := p.nextId
  let cells := (els.zipIdx).map (fun x => (⟨row, x.2, x.1.1, x.1.2, 0, 0⟩ : Cell))
  let p := plazaAdd e id 2 0 0 .own [row / 16] cells (launch p e plan0)
  let l := (p.flights.filter (fun f => f.id == id)).flatMap (fun f => match f.finish with
    | .tally l => l
    | _ => [])
  let p := { p with flights := p.flights.filter (fun f => f.id != id) }
  l.foldl (fun p t => countSquare e.v t.1 t.2.1 t.2.2 p) p

/-- One row into the Plaza; none while the scoreboard holds it. A row that takes no ADD stops the stream, not its
task (log 78: DESIGN CHOICE, unsafe). -/
def scatterTile (p : Plane) (n row : Nat) (ev : List ArrayEvent) (els : List (Acc × Int)) : Option Plane :=
  let s := getS p n
  let e := envTask p s.owner s.slot (sPart s) s.epoch ev
  let gs := [(row / 16, GAccess.add)]
  if 1280 ≤ row then some (streamBad p n .plazaNotOpen)
  else if groupBusy p e.v gs false || groupAway p e.v gs then none
  else if (addFault (getV p e.v) e.ep [row / 16]).isSome then some (streamBad p n .plazaNotOpen)
  else some (checkedAdd e ⟨false, true⟩ row 1 (groupBytes (getV p e.v)) (addRow e row els) p)

/-- Read, add and write one row of the table. -/
def scatterMem (fails : Fails) (p : Plane) (n v : Nat) (els : List (Acc × Int)) : Plane :=
  let s := getS p n
  let a := sTable s v
  match streamBadReqs p s fails a (24 * els.length) with
  | _ :: _ => streamErrors s (streamBadReqs p s fails a (24 * els.length)) p
  | [] =>
    (els.zipIdx).foldl (fun p x =>
      let at0 := a + 24 * x.2
      let old := xaf136Read (memAt p at0 24)
      if old.2 = x.1.2 then memStore p at0 (xaf136Bytes (accJoin old.1 x.1.1) old.2)
      else floorMismatch p (sPart s) s.epoch s.owner s.slot (homePort p s.owner) 0 (v * els.length + x.2) x.1.2
        0xFFFFFFFF) p

/-- The events of the buffer's row `k`, from that row. -/
def rowEvents (ev : List ArrayEvent) (k : Nat) : List ArrayEvent :=
  (ev.filter (fun a => a.row.toNat == k)).map (fun a => { a with row := 0 })

/-- One row of the current buffer. A row of SCATTER_ADD_TILE that is not 72 units long gives as many entries as fit,
192 at most. (log 78: DESIGN CHOICE, unsafe) -/
def scatterRow (ev : List ArrayEvent) (fails : Fails) (n : Nat) (p : Plane) : Plane :=
  let s := getS p n
  match current s with
  | none => p
  | some h =>
    if bufFull s ∨ s.stopped ∨ (getP p (sPart s)).rollback.isSome then p
    else
      let v := streamIndex p s
      if sRows s ≤ v then badIndex p n v
      else
        let per := sRowBytes s / 24
        let step (p : Plane) : Plane :=
          if (getP p (sPart s)).rollback.isSome ∨ (getS p n).stopped then p
          else modS p n (fun s => setDone { s with rows := s.rows + 1 } (sDone s + 1))
        if sKind s = 2 then
          ((scatterTile p n (fld s.img 237 227 + v) (rowEvents ev s.rows)
            (bufEntries p h (s.rows * sRowBytes s) (min per 192))).map step).getD p
        else step (scatterMem fails p n v (bufEntries p h (s.rows * sRowBytes s) per))

/-- The rows of the current buffer, as far as they go; `ev` counts rows from the buffer's first. -/
def scatterStep (ev : List ArrayEvent) (fails : Fails) (n : Nat) (p : Plane) : Plane :=
  if !(streamRuns (getS p n) && (sKind (getS p n) == 2 || sKind (getS p n) == 3)) then p
  else
    let p := streamReady p n
    if !(getS p n).ready then p
    else
      let pass (p : Plane) : Plane := if bufFull (getS p n) then streamPass p n (sFree (getS p n)) else p
      let p := nextBuf (pass p) n (sIn (getS p n))
      let p := countRetries (homePort p (getS p n).owner) fails p
      let p := forN (getS p n).lim p (fun p _ => scatterRow ev fails n p)
      if (getS p n).stopped then p else pass p

def execScatterAddBuffer (n : BitVec 12) (ev : List ArrayEvent) (fails : Fails) (s : State) :
    Host.Outcome State Fault Refusal :=
  onPlane s (onReady (scatterStep ev fails n.toNat))

/-! ## STREAM_START (R142) -/

def startNum (e : Env) (f : XferF) : Nat := e.r f.creg % 4096

def startFault (f : XferF) (p : Plane) (e : Env) : Option (Code × List Byte) :=
  let s := getS p (startNum e f)
  let obj := toLE 64 s.img.toNat
  let img : Stream := { streamInit with img := BitVec.ofNat 512 (memNatAt p (xAddr e f) 64) }
  if sState s ≠ 0 ∧ sPart s ≠ e.pi then some (.partViolation, obj)
  else if sState s ≠ 0 then some (.streamBusy, obj)
  else if 4 ≤ sKind img ∨ sRowBytes img = 0 ∨ (sKind img = 1 ∧ p.rdOwner ≠ some e.pi) then
    some (.streamCfg, toLE 64 img.img.toNat)
  else none

def startPlan (f : XferF) (p : Plane) (e : Env) : Plan :=
  { memPlan f with
    head := alignFault (xAddr e f) 8
    check := startFault f p e }

def startRun (f : XferF) (p : Plane) (e : Env) (id : Nat) : Plane :=
  let a := xAddr e f
  let n := startNum e f
  let p := readReqs p e.pi e.v e.s id a 64
  if (reqList a 64).all (fun r => inWindow p e.pi r.1 r.2) then
    streamReady (setS p n (streamStarted (streamImage (memNatAt p a 64) e.v e.pi) e.v e.s e.ep)) n
  else p

/-! ## ROW_INSTALL and ROW_EVICT (R150) -/

/-- The slot that BREG and BOFF name (log 76: DESIGN CHOICE, unsafe). -/
def installSlot (e : Env) (f : XferF) : Nat := (e.r f.breg + f.boff.toNat) % 2 ^ 15

/-- An install, as an evict, from a partition that does not own the Row Directory is carried out: no rule names a
fault (log 76: DESIGN CHOICE, unsafe). -/
def installFault (f : XferF) (p : Plane) (e : Env) : Option (Code × List Byte) :=
  let s := getS p (startNum e f)
  let obj := toLE 64 s.img.toNat
  if sPart s ≠ e.pi then some (.partViolation, obj)
  else if 2 * cfgRes (getV p e.v).bufCfg * 65536 < sRowBytes s * (installSlot e f + 1) then some (.rowSlot, obj)
  else none

/-- Units of the RES part that a slot touches. -/
def resSpan (c : U32) (v o n : Nat) : List BufAt :=
  let part (b m : Nat) : List BufAt :=
    if m = 0 then []
    else [⟨v, b / halfBytes, b % halfBytes / 128, (b % halfBytes + m - 1) / 128 + 1 - b % halfBytes / 128⟩]
  let k := cfgRes c * 65536
  part (resByte c o) (min n (k - o)) ++ part (resByte c (max o k)) (n - min n (k - o))

def installPlan (f : XferF) (p : Plane) (e : Env) : Plan :=
  let s := getS p (startNum e f)
  { memPlan f with
    check := installFault f p e
    wr := resSpan (getV p e.v).bufCfg e.v (sRowBytes s * installSlot e f) (sRowBytes s) }

def installRun (f : XferF) (p : Plane) (e : Env) (id : Nat) : Plane :=
  let s := getS p (startNum e f)
  let v := e.r32 f.xreg
  let row := sRowId s v
  let w := BitVec.ofNat 32 (2 ^ 31 + row / 2 ^ 22 * 2 ^ 21 + e.v * 2 ^ 15 + installSlot e f)
  let p := modFlight p id (fun x =>
    { x with finish := .install row w (sTable s v) (sRowBytes s) e.v (sRowBytes s * installSlot e f) })
  readReqs p e.pi e.v e.s id (sTable s v) (sRowBytes s)

/-- Completion of a ROW_INSTALL: the copy, then the entry. -/
def finishInstall (bad : List (Nat × Nat)) (row : Nat) (w : U32) (a n v o : Nat) (p : Plane) : Plane :=
  setRd (resWrite p v o (patchBytes bad a (resRead p v o n) (memAt p a n))) row w

def evictPlan (f : XferF) (_ : Plane) (_ : Env) : Plan := { memPlan f with memTrk := false }

def evictRun (f : XferF) (p : Plane) (e : Env) (_ : Nat) : Plane :=
  setRd p (e.r32 f.xreg) (setFld (rdEntry p (e.r32 f.xreg)) 31 31 0)

/-! ## Mutual waits (R160) -/

/-- (log 79: DESIGN CHOICE, unsafe) -/
def memberId : CycleMember → Nat
  | .stream n => n.toNat
  | .task v s => 2 ^ 30 + v.val * 16 + s.val
  | .queue q => 2 ^ 31 + q.toNat

def cycleStreams (c : List CycleMember) : List Nat :=
  c.filterMap (fun m => match m with
    | .stream n => some n.toNat
    | _ => none)

/-- The members are of the partition, and its streams run. -/
def cycleOk (p : Plane) (i : Nat) (c : List CycleMember) : Bool :=
  decide (c ≠ []) && c.all (fun m => match m with
    | .stream n => sState (getS p n.toNat) == 1 && sPart (getS p n.toNat) == i
    | .task v s => partOf p v.val == some i && (getT p v.val s.val).st != .free
    | .queue q => hqOk p i q.toNat)

/-- Better victim: lower PRIO, then lower number. -/
def mwPick (p : Plane) (l : List Nat) : Option Nat :=
  l.foldl (fun a n => match a with
    | none => some n
    | some m =>
      if sPrio (getS p n) < sPrio (getS p m) ∨ (sPrio (getS p n) = sPrio (getS p m) ∧ n < m) then some n
      else some m) none

/-- First free byte of an engine's mutual-wait area, which holds 4 MiB. -/
def mwEnd (p : Plane) (v : Nat) : Nat :=
  (p.streams.flatMap (fun s => s.2.spilled)).foldl (fun n m => if m.veng = v then max n (m.offset + m.size) else n) 0

/-- The stream's youngest held buffer goes to the mutual-wait area, its handle to FREE_HQ (R160 steps 2 and 3). -/
def spillBuf (p : Plane) (n h : Nat) : Plane :=
  let s := getS p n
  let b := handleAt h
  let off := mwEnd p b.veng
  let len := 128 * hUnits h
  let gather := sKind s < 2
  let m : MwBuf :=
    { veng := b.veng
      offset := off
      size := len
      lo := if gather then 0 else s.rows * sRowBytes s
      hi := (if gather then s.rows else s.lim) * sRowBytes s }
  let p := hqPush (memStore p (mwAddr p b.veng off) (bufGet p b len)) (sFree s) h
  modS p n (fun s => { s with
    held := s.held.dropLast
    rows := 0
    lim := 0
    spilled := if m.lo < m.hi then m :: s.spilled else s.spilled })

/-- The region in whose arbiter the cycle stands: that of its first member (log 79: DESIGN CHOICE, unsafe). -/
def cycleRegion (p : Plane) (i : Nat) (c : List CycleMember) : Nat :=
  match c with
  | .stream n :: _ => homePort p (getS p n.toNat).owner / 8
  | .task v _ :: _ => homePort p v.val / 8
  | _ => (upTo 8 (fun r => partOfRegion p r == some i)).headD 0

def mutualWait (i : Nat) (c : List CycleMember) (p : Plane) : Plane :=
  if !(getP p i).defined || !cycleOk p i c then p
  else
    let r := cycleRegion p i c
    let p := stallR p r 11 1
    let src := 0x40 + r
    let d := (c.take 8).flatMap (fun m => toLE 4 (memberId m))
    if !dutyHw p i 4 then raise p .mutualWait src (some i) d [.pn i 4]
    else
      let hard (p : Plane) : Plane := raise p .mutualWaitHard src (some i) d [.pn i 5]
      let able := (cycleStreams c).filter (fun n => (current (getS p n)).isSome && !hqFull p (sFree (getS p n)))
      match mwPick p able with
      | none => hard p
      | some n =>
        match (getS p n).held.getLast? with
        | none => hard p
        | some h =>
          if 4194304 < mwEnd p (handleAt h).veng + 128 * hUnits h then hard p
          else
            raise (ledgerAdd (spillBuf p n h) 1459 1) .mutualWaitBreak src (some i) d
              [.count i (running p i) .waitBreak]

def execMutualWaitBreak (part : Fin 8) (c : List CycleMember) (s : State) : Host.Outcome State Fault Refusal :=
  onPlane s (onReady (mutualWait part.val c))

end Sys2Proof.Machine
end

