-- ==== Sys2Proof/Machine/Ring.lean ====
section
/-! DEFINITION. The Roundabout: sequences and turns (R152 to R155), SEND, RECV and MCAST (R179). -/

namespace Sys2Proof.Machine

/-! ## Shards (R152, R162; layout of the table: log 15: DESIGN CHOICE, safe) -/

def ringBuf : Nat := 65536

/-- Bytes of a shard table that the Plane reads (log 15: DESIGN CHOICE, safe). (log 71: DESIGN CHOICE, unsafe) -/
def tableBytes : Nat := 1024

def tableOk (t : List Byte) : Bool :=
  (List.range 64).all (fun k => Config.shardResident t k == Config.shardResident t 0
      && Config.shardStreamed t k == Config.shardStreamed t 0)
    && decide (0 < Config.shardResident t 0) && decide (Config.shardResident t 0 % (2 * ringBuf) = 0)
    && decide (Config.shardStreamed t 0 % 128 = 0)

/-- The two halves of the operand buffer hold 2 × RING × 64 KiB. -/
def ringPartBytes (p : Plane) (v : Nat) : Nat := 2 * cfgRing (getV p v).bufCfg * ringBuf

def seqOk (p : Plane) (t : List Byte) (lag : Nat) : Bool :=
  tableOk t && (List.range 64).all (fun v =>
    decide (Config.shardResident t 0 + (lag + 1) * (2 * ringBuf) ≤ ringPartBytes p v))

def halfLen (t : List Byte) : Nat := (Config.shardResident t 0 + Config.shardStreamed t 0) / 2

/-- Buffers of a half: its resident part rides the ring, its streamed part comes from memory (R152, R162). -/
def halfBufsOf (t : List Byte) : Nat := Config.shardResident t 0 / (2 * ringBuf)

/-- The shard whose even (odd) half a stop uses in a turn. -/
def shardAt (v turn : Nat) (odd : Bool) : Nat := if odd then (v + turn) % 64 else (v + 64 - turn % 64) % 64

def copyAddr (t : List Byte) (k : Nat) : Nat := Config.shardAddr t k % 2 ^ 52

/-- A half of shard `k`, from its memory copy: the resident part first (log 15: DESIGN CHOICE, safe). -/
def copyHalf (p : Plane) (t : List Byte) (k : Nat) (odd : Bool) : List Byte :=
  (Config.shardHalf odd (memAt p (copyAddr t k) (2 * halfLen t)) ++ zeros (halfLen t)).take (halfLen t)

/-! ## Where a stop puts the halves -/

/-- A local address inside the RING part, with room for `n` units that nothing in flight reads or writes (R85). -/
def placeFree (p : Plane) (v : Nat) (a : BitVec 16) (n : Nat) : Bool :=
  let c := (getV p v).bufCfg
  let u := a.toNat % 2 ^ 15
  let rs := bufRegions ⟨v, a.toNat / 2 ^ 15, u, n⟩
  decide (u + n ≤ 24576) && bufPart c u == .ring && bufPart c (u + n - 1) == .ring
    && !p.flights.any (fun f => rs.any (fun r => f.bufRd.contains r || f.bufWr.contains r))

/-- The two places serve both halves of a shard and do not overlap. -/
def placesFree (p : Plane) (v : Nat) (pl : RingPlace) (t : List Byte) : Bool :=
  let n := unitsOf (halfLen t)
  placeFree p v pl.even n && placeFree p v pl.odd n
    && (decide (pl.even.toNat + n ≤ pl.odd.toNat) || decide (pl.odd.toNat + n ≤ pl.even.toNat))

def placeHalf (p : Plane) (v : Nat) (a : BitVec 16) (bs : List Byte) : Plane :=
  bufWrite p v (a.toNat / 2 ^ 15) (128 * (a.toNat % 2 ^ 15)) bs

/-- Both halves of a turn stand in the operand buffer. -/
def placeTurn (v : Nat) (pl : RingPlace) (even odd : List Byte) (q : RingSeq) (p : Plane) : Plane :=
  let p := placeHalf (placeHalf p v pl.even even) v pl.odd odd
  modV p v (fun x => { x with ring := some { q with
    even := { q.even with
      place := pl.even
      read := [] }
    odd := { q.odd with
      place := pl.odd
      read := [] } } })

/-! ## SEQ -/

def lagOf (f : RingF) : Nat := if f.lag.toNat = 0 then 2 else f.lag.toNat

def ringAddr (e : Env) (f : RingF) : Nat := memAddr (e.r f.mreg) f.moff

def seqPlan (f : RingF) (p : Plane) (e : Env) : Plan :=
  { plan0 with
    check := if seqOk p (memAt p (ringAddr e f) tableBytes) (lagOf f) then none else some (.ringCfg, [])
    flies := true
    memTrk := true
    tag := some f.tag.toNat }

def halfInit (n : Nat) : RingHalf := ⟨0, zeros (n * ringBuf), [], 0, 0⟩

/-- The table and the stop's own shard are read; the halves stand in the buffer once they have arrived. -/
def seqRun (f : RingF) (pl : RingPlace) (p : Plane) (e : Env) (id : Nat) : Plane :=
  let t := memAt p (ringAddr e f) tableBytes
  let n := unitsOf (halfLen t)
  let h := halfInit (halfBufsOf t)
  let q : RingSeq := ⟨e.s, e.ep, t, halfBufsOf t, lagOf f, 0, h, h, false, false, false⟩
  let span (a : BitVec 16) : BufAt := ⟨e.v, a.toNat / 2 ^ 15, a.toNat % 2 ^ 15, n⟩
  let p := modFlight (modV p e.v (fun x => { x with ring := some q })) id (fun x => { x with
    bufWr := x.bufWr ++ bufRegions (span pl.even) ++ bufRegions (span pl.odd)
    finish := .ringSeq pl })
  readReqs (readReqs p e.pi e.v e.s id (ringAddr e f) tableBytes) e.pi e.v e.s id (copyAddr t e.v) (2 * halfLen t)

/-- The halves of turn 0 have arrived; a failed read leaves the buffer as it was (R194). -/
def finishSeq (v : Nat) (pl : RingPlace) (failed : Bool) (p : Plane) : Plane :=
  match (getV p v).ring with
  | none => p
  | some q =>
    let n := q.halfBufs * ringBuf
    let even := copyHalf p q.table v false
    let odd := copyHalf p q.table v true
    let ride (h : RingHalf) (bs : List Byte) : RingHalf := { h with data := bs.take n ++ h.data.drop n }
    if failed then p
    else
      placeTurn v pl even odd { q with
        even := ride q.even even
        odd := ride q.odd odd } p

/-! ## TURN -/

/-- Both halves of this turn have moved on and both of the next turn are at the stop (R153, R179); a detached stop
fetches them from memory (R154). -/
def turnReady (q : RingSeq) : Bool :=
  let ok (h : RingHalf) : Bool := decide (h.passed = (q.turn + 1) * q.halfBufs)
    && decide (q.halfBufs * ringBuf ≤ h.data.length)
  !q.ended && decide (q.turn < 63) && (q.detached || (ok q.even && ok q.odd))

/-- The table and shard of a SEQ are still on their way. -/
def seqLoading (p : Plane) (v : Nat) : Bool :=
  p.flights.any (fun f => f.veng == v && (match f.finish with
    | .ringSeq _ => true
    | _ => false))

def turnPlan (p : Plane) (e : Env) : Plan :=
  { plan0 with
    holds := if ((getV p e.v).ring.map turnReady).getD false && !seqLoading p e.v then [] else [2] }

/-- A half of the next turn: what the stop upstream used in this one, and the streamed part from memory. -/
def nextHalf (p : Plane) (q : RingSeq) (v : Nat) (odd : Bool) : List Byte :=
  let copy := copyHalf p q.table (shardAt v (q.turn + 1) odd) odd
  let n := q.halfBufs * ringBuf
  if q.detached then copy else (if odd then q.odd.data else q.even.data).take n ++ copy.drop n

def turnRun (f : RingF) (pl : RingPlace) (p : Plane) (e : Env) (_ : Nat) : Plane :=
  match (getV p e.v).ring with
  | none => p
  | some q =>
    let p := placeTurn e.v pl (nextHalf p q e.v false) (nextHalf p q e.v true) { q with turn := q.turn + 1 } p
    setReg p e f.dreg (pl.even.toNat + pl.odd.toNat * 2 ^ 16)

/-! ## Passing buffers on (R153 to R155) -/

def halfOf (q : RingSeq) (odd : Bool) : RingHalf := if odd then q.odd else q.even

def setHalf (q : RingSeq) (odd : Bool) (h : RingHalf) : RingSeq :=
  if odd then { q with odd := h } else { q with even := h }

/-- Even halves ride toward ascending stops, odd halves toward descending ones. -/
def nextStop (v : Nat) (odd : Bool) : Nat := if odd then (v + 63) % 64 else (v + 1) % 64

/-- The next buffer is released: of an earlier turn; of this turn, once an LDW has read it or TURN asks for the next
(`turning`), and nothing in flight still reads it (R85, R153, R179); of a later turn, in transit past a detached stop. -/
def released (p : Plane) (v : Nat) (q : RingSeq) (odd turning : Bool) : Bool :=
  let h := halfOf q odd
  let k := h.passed - q.turn * q.halfBufs
  if h.passed < q.turn * q.halfBufs then true
  else if h.passed < (q.turn + 1) * q.halfBufs then
    (turning || h.read.contains k)
      && !p.flights.any (fun f => (bufRegions ⟨v, h.place.toNat / 2 ^ 15, h.place.toNat % 2 ^ 15 + 512 * k, 512⟩).any
        (fun r => f.bufRd.contains r || f.bufWr.contains r))
  else q.detached

/-- Nothing of turn 63 is passed on. -/
def mayPass (p : Plane) (v : Nat) (q : RingSeq) (odd turning : Bool) : Bool :=
  let h := halfOf q odd
  !q.ended && decide (h.passed < 63 * q.halfBufs) && decide (ringBuf ≤ h.data.length) && released p v q odd turning

/-- Buffers sent to a stop and not yet released, beyond a shard's half. -/
def lagAt (q : RingSeq) (odd : Bool) : Nat := (halfOf q odd).arrived - (halfOf q odd).passed

/-- A receiver is detached (R154): its counters and the epoch's. -/
def countDetach (p : Plane) (v : Nat) : Plane :=
  let r := homePort p v / 8
  let p := ledgerAdd (stallR p r 7 1) (1272 + r) 1
  match partOf p v with
  | none => p
  | some i => modEp p i (running p i) (fun e => { e with detachCnt := e.detachCnt + 1 })

def arriveAt (odd : Bool) (bs : List Byte) (q : RingSeq) : RingSeq :=
  setHalf q odd { halfOf q odd with
    data := (halfOf q odd).data ++ bs
    arrived := (halfOf q odd).arrived + 1 }

def leaveAt (odd : Bool) (q : RingSeq) : RingSeq :=
  setHalf q odd { halfOf q odd with
    data := (halfOf q odd).data.drop ringBuf
    passed := (halfOf q odd).passed + 1 }

def modRing (p : Plane) (v : Nat) (f : RingSeq → RingSeq) : Plane := modV p v (fun x => { x with ring := x.ring.map f })

/-- A buffer moves from a stop to the next. -/
def moveBuf (p : Plane) (v d : Nat) (odd : Bool) (bs : List Byte) : Plane :=
  modRing (modRing p v (leaveAt odd)) d (arriveAt odd bs)

def ringPass (v : Nat) (odd turning : Bool) (p : Plane) : Plane :=
  let d := nextStop v odd
  match (getV p v).ring, (getV p d).ring with
  | some q, some r =>
    let bs := (halfOf q odd).data.take ringBuf
    if !mayPass p v q odd turning || seqLoading p v || r.ended then p
    else if r.detached || decide (lagAt r odd + 1 ≤ r.lagLimit) then moveBuf p v d odd bs
    else
      match partOf p d with
      | none => p
      | some i =>
        if dutyHw p i 5 then
          moveBuf (modRing (countDetach p d) d (fun r => { r with detached := true })) v d odd bs
        else stallR p (homePort p v / 8) 6 1
  | _, _ => p

/-- Buffers sent to a receiver by multicast and not yet released. -/
def mcastLag (p : Plane) (dst : Nat) : Nat :=
  (p.ringSends.filter (fun s => s.mcast && s.dst == dst)).foldl (fun n s => n + (s.data.length + ringBuf - 1) / ringBuf) 0

def mcastLimit (p : Plane) (dst : Nat) : Nat := ((getV p dst).ring.map RingSeq.lagLimit).getD 2

/-- RING_LAG: a stop or a multicast receiver has been at its limit for 2^16 counts in host-assisted mode (R155). -/
def ringLag (v : Nat) (p : Plane) : Plane :=
  match partOf p v with
  | none => p
  | some i =>
    let rec' (p : Plane) (w s : Nat) : Plane :=
      raise p .ringLag (0x40 + homePort p v / 8) (some i) (toLE 4 (2 ^ 30 + w * 16 + s)) [.pn i 4]
    let stop : Option Nat := ((getV p v).ring.filter (fun q => !q.ended && !q.detached && !q.lagRec
      && (decide (q.lagLimit ≤ lagAt q false) || decide (q.lagLimit ≤ lagAt q true)))).map RingSeq.slot
    let late := p.ringSends.find? (fun s => s.mcast && s.dst == v)
    if dutyHw p i 5 then p
    else
      match stop with
      | some s => rec' (modRing p v (fun q => { q with lagRec := true })) v s
      | none =>
        match late with
        | some s =>
          if s.lagRec ∨ mcastLag p v < mcastLimit p v then p
          else
            rec' { p with ringSends := p.ringSends.map (fun x =>
              if x.mcast ∧ x.dst = v then { x with lagRec := true } else x) } s.src s.slot
        | none => p

def execRingLag (v : Fin 64) (s : State) : Host.Outcome State Fault Refusal := onPlane s (onReady (ringLag v.val))

/-! ## SEND, MCAST and RECV (R179) -/

def ringData (p : Plane) (e : Env) (f : RingF) : BufAt × List Code :=
  bufResolve p e.v (e.r f.breg) f.boff.toNat (unitsOf f.len.toNat) .read

/-- RING_LEN: the RECV has no effect and its task stops at it; a slot that is ENDING goes on to FREE (R165). -/
def recvFault (r : RingRecv) (p : Plane) : Plane :=
  match partOf p r.veng with
  | none => p
  | some i =>
    let s := r.iss.slot.val
    let on := (getT p r.veng s).st == .active
    let p := if on then modT p r.veng s (fun t => { t with
        st := .stopped
        regs := { t.regs with pc := r.pc } })
      else p
    raise p .ringLen (homePort p r.veng) (some i) (dInstr r.veng s r.pc (wRing r.iss 3 r.f) [])
      (if on then [.pn i 3] else [])

/-- The oldest RECV of an engine that names a source meets that source's oldest send to it. (log 80: DESIGN CHOICE, unsafe) -/
def ringMatch (dst src : Nat) (p : Plane) : Plane :=
  match p.ringRecvs.find? (fun r => r.veng == dst && r.src == src),
      p.ringSends.find? (fun s => s.src == src && s.dst == dst) with
  | some r, some s =>
    let p := { p with ringRecvs := p.ringRecvs.erase r }
    if r.room < s.data.length then
      recvFault r { p with flights := p.flights.filter (fun f => f.id != r.flight) }
    else bufWrite { p with ringSends := p.ringSends.erase s } r.buf r.half (128 * r.unit) s.data
  | _, _ => p

def sendPlan (f : RingF) (p : Plane) (e : Env) : Plan :=
  let b := ringData p e f
  { plan0 with
    head := b.2
    flies := true
    ringTrk := true
    tag := some f.tag.toNat
    rd := [b.1]
    finish := .ring }

/-- A multicast whose buffers would take a receiver beyond its lag limit detaches it, and its sender no longer waits
for it. -/
def detachMcast (s : RingSend) (p : Plane) : Plane :=
  match partOf p s.dst with
  | none => p
  | some i =>
    if p.ringSends.contains s && decide (mcastLimit p s.dst < mcastLag p s.dst) && dutyHw p i 5 then
      countDetach { p with
        nextId := p.nextId + 1
        ringSends := p.ringSends.map (fun x => if x = s then { x with flight := p.nextId } else x) } s.dst
    else p

/-- The data goes to a receiver: into the buffer of a RECV that waits for it, else it waits itself. -/
def sendTo (mc : Bool) (fid src slot : Nat) (data : List Byte) (p : Plane) (dst : Nat) : Plane :=
  let s : RingSend := ⟨fid, src, slot, dst, data, mc, false⟩
  let p := ringMatch dst src { p with ringSends := p.ringSends ++ [s] }
  if mc then detachMcast s p else p

def sendRun (mc : Bool) (f : RingF) (p : Plane) (e : Env) (id : Nat) : Plane :=
  let data := bufGet p (ringData p e f).1 f.len.toNat
  let dsts := if mc then upTo 64 (fun k => bit (e.r f.xreg) k) else [e.r f.xreg % 64]
  dsts.foldl (sendTo mc id e.v e.s data) p

def recvBuf (p : Plane) (e : Env) (f : RingF) : BufAt × List Code :=
  bufResolve p e.v (e.r f.breg) f.boff.toNat 1 .fill

/-- Units to the end of the handle's buffer, or of the part. -/
def recvRoom (p : Plane) (e : Env) (f : RingF) (b : BufAt) : Nat :=
  if bit (e.r f.breg) 63 then
    let h := e.r f.breg % 2 ^ 32
    hOffset h + hUnits h - b.unit
  else
    let c := (getV p e.v).bufCfg
    ((List.range (24576 - b.unit)).takeWhile (fun k => bufPart c (b.unit + k) == bufPart c b.unit)).length

def recvPlan (f : RingF) (p : Plane) (e : Env) : Plan :=
  let b := recvBuf p e f
  { plan0 with
    head := b.2
    flies := true
    ringTrk := true
    tag := some f.tag.toNat
    wr := [{ b.1 with span := recvRoom p e f b.1 }]
    finish := .ring }

def recvRun (f : RingF) (p : Plane) (e : Env) (id : Nat) : Plane :=
  let b := (recvBuf p e f).1
  let src := e.r f.xreg % 64
  let r : RingRecv := ⟨id, e.v, src, b.veng, b.half, b.unit, 128 * recvRoom p e f b, e.t.regs.pc, e.i, f⟩
  ringMatch e.v src { p with ringRecvs := p.ringRecvs ++ [r] }

/-- A SEND or RECV has nothing left to wait for. -/
def ringDone (p : Plane) (fid : Nat) : Bool :=
  !p.ringSends.any (fun s => s.flight == fid) && !p.ringRecvs.any (fun r => r.flight == fid)

/-- A sequence whose turns are done (R158). -/
def seqDone (q : RingSeq) : Bool :=
  q.ended || (decide (q.turn = 63) && decide (63 * q.halfBufs ≤ q.even.passed) && decide (63 * q.halfBufs ≤ q.odd.passed))

end Sys2Proof.Machine
end

