-- ==== Sys2Proof/Machine/Sync.lean ====
section
/-! DEFINITION. Waiting and ordering: HQ (R147, R148, R180), CROSS (R156 to R158, R181), SWAP (R138), WAIT
(R189), CTX (R126, R127, R182), SEAL (R236), and the Crossing's release. -/

namespace Sys2Proof.Machine

/-! ## HQ (R180) -/

/-- (log 81: DESIGN CHOICE, unsafe) -/
def hqHead (p : Plane) (e : Env) (f : HqF) : List Code := if hqOk p e.pi f.qid.toNat then [] else [.hqInvalid]

def hqObj (p : Plane) (f : HqF) : List Byte := toLE 8 (hqImage (getQ p f.qid.toNat))

def putHandle (e : Env) (f : HqF) : Nat := e.r f.sreg % 2 ^ 32

/-- An earlier instruction of the task still writes the named buffer. -/
def putPending (p : Plane) (e : Env) (f : HqF) : Bool :=
  p.flights.any (fun x => x.veng == e.v && x.slot == e.s
    && (bufRegions (handleAt (putHandle e f))).any (fun r => x.bufWr.contains r))

def putPlan (f : HqF) (p : Plane) (e : Env) : Plan :=
  { plan0 with
    head := hqHead p e f ++ (if handleOk p (putHandle e f) then [] else [.handleRange])
    obj := hqObj p f
    holds := (if putPending p e f then [3] else []) ++ (if hqFull p f.qid.toNat && !f.tryIt then [4] else []) }

def putRun (f : HqF) (p : Plane) (e : Env) (_ : Nat) : Plane :=
  let full := hqFull p f.qid.toNat
  let p := if full then p else hqPush p f.qid.toNat (putHandle e f)
  if f.tryIt then setPred p e f.pd (!full) else p

def getPlan (f : HqF) (p : Plane) (e : Env) : Plan :=
  { plan0 with
    head := hqHead p e f
    obj := hqObj p f
    holds := if (getQ p f.qid.toNat).items.isEmpty && !f.tryIt then [4] else [] }

def getRun (f : HqF) (p : Plane) (e : Env) (_ : Nat) : Plane :=
  let pred (p : Plane) (b : Bool) : Plane := if f.tryIt then setPred p e f.pd b else p
  match (getQ p f.qid.toNat).items with
  | [] => pred p false
  | h :: _ => pred (setReg (hqPop p f.qid.toNat) e f.sreg (2 ^ 63 + h)) true

/-! ## XFER_FAILED (R194) -/

def slotFailed (p : Plane) (v s : Nat) : Bool := (getT p v s).failTags != 0

/-- Instruction word `pc` of an engine's program (R284). -/
def progWord (p : Plane) (v pc : Nat) : BitVec 128 :=
  match (getV p v).prog with
  | some g => BitVec.ofNat 128 (memNatAt p (g.addr + 128 + 16 * pc) 16)
  | none => 0

/-- Stop a task that a failed transfer has left. -/
def failStop (i v : Nat) (p : Plane) (s : Nat) : Plane :=
  let t := getT p v s
  if t.st = .free ∨ t.st = .stopped ∨ t.failTags = 0 then p
  else
    let p := modT p v s (fun t => { t with st := .stopped })
    raise p .xferFailed (homePort p v) (some i) (dInstr v s t.regs.pc (progWord p v t.regs.pc) []) [.pn i 3]

/-- Every failed task of a virtual engine. -/
def failEngine (p : Plane) (i v : Nat) : Plane := (spKeys (getV p v).tasks).foldl (failStop i v) p

def failCheck (e : Env) (mask : Nat) : Option (Code × List Byte) :=
  if e.t.failTags.toNat &&& mask = 0 then none else some (.xferFailed, [])

/-! ## CROSS -/

def arriveFault (p : Plane) (e : Env) (cid mask : Nat) : Option (Code × List Byte) :=
  let bad := !bit mask e.v || (match spGet p.cross cid with
    | none => false
    | some c => c.mask.toNat != mask || bit c.issued.toNat e.v)
  if bad then some (.crossMask, []) else none

def arrivePlan (cid : BitVec 6) (mreg : BitVec 5) (p : Plane) (e : Env) : Plan :=
  { plan0 with
    check := firstOf [arriveFault p e cid.toNat (e.r mreg), failCheck e 0xFFFF]
    flies := true
    finish := .crossArrive cid.toNat }

def setBit64 (w : U64) (v : Nat) : U64 := w ||| BitVec.ofNat 64 (2 ^ v)

def arriveRun (cid : BitVec 6) (mreg : BitVec 5) (p : Plane) (e : Env) (_ : Nat) : Plane :=
  let c := (spGet p.cross cid.toNat).getD ⟨BitVec.ofNat 64 (e.r mreg), 0, 0, false, 0, false⟩
  let p := { p with cross := spPut p.cross cid.toNat { c with issued := setBit64 c.issued e.v } }
  let p := modV p e.v (fun x => { x with arrivals := spPut x.arrivals cid.toNat .pending })
  failEngine p e.pi e.v

def waitPlan (cid : BitVec 6) (p : Plane) (e : Env) : Plan :=
  let a := spGet (getV p e.v).arrivals cid.toNat
  { plan0 with
    holds := if a = some .pending then [5] else []
    check := if a = none then some (.crossMask, []) else none }

/-- The participant has passed its wait; the ID is free once all have (R157). -/
def passWait (p : Plane) (cid v : Nat) : Plane :=
  match spGet p.cross cid with
  | none => p
  | some c =>
    if c.released && bit c.mask.toNat v then
      let q := setBit64 c.passed v
      if q = c.mask then { p with cross := spDel p.cross cid }
      else { p with cross := spPut p.cross cid { c with passed := q } }
    else p

/-- Instructions that an arrive waits for: all that the engine issued before it but other arrives and
point-to-point ring traffic (R156). -/
def arriveWaits (f : Flight) : Bool :=
  match f.finish with
  | .crossArrive _ => false
  | .sealArrive => false
  | .ring => false
  | _ => true

def streamsOf (p : Plane) (v : Nat) : List Nat :=
  ((p.streams.filter (fun s => s.2.owner == v && sState s.2 == 1)).map Prod.fst)

/-- The conditions of R156 for an arrive with identity `fid`. -/
def arriveReady (p : Plane) (v fid : Nat) : Bool :=
  !p.flights.any (fun f => f.veng == v && decide (f.id < fid) && arriveWaits f)
    && (streamsOf p v).all (fun n => streamDone (getS p n))
    && (match (getV p v).ring with
      | none => true
      | some q => seqDone q)

/-- Streams and the sequence of the engine have ended (R158). -/
def endStreams (p : Plane) (v : Nat) : Plane :=
  let p := (streamsOf p v).foldl (fun p n => modS p n (fun s => setState s 2)) p
  modV p v (fun x => { x with ring := x.ring.map (fun q => { q with ended := true }) })

def dropFlight (p : Plane) (id : Nat) : Plane := { p with flights := p.flights.filter (fun f => f.id != id) }

/-- An arrive completes: failed tasks of the engine stop, streams end, the engine has arrived. -/
def arriveDone (cid v : Nat) (p : Plane) : Plane :=
  match p.flights.find? (fun f => f.veng == v && f.finish == .crossArrive cid) with
  | none => p
  | some f =>
    if !arriveReady p v f.id then p
    else
      let p := endStreams (failEngine (dropFlight p f.id) f.part v) v
      match spGet p.cross cid with
      | none => p
      | some c => { p with cross := spPut p.cross cid { c with arrived := setBit64 c.arrived v } }

/-- The oldest handle returns to FREE_HQ when there is room. -/
def returnHandle (p : Plane) (n : Nat) : Plane :=
  let s := getS p n
  match s.held with
  | [] => p
  | h :: t => if hqFull p (sFree s) then p else setS (hqPush p (sFree s) h) n { s with held := t }

/-- Its handles return to the pool, and the stream is IDLE with its counters once all have (R158, R363).
(log 77: DESIGN CHOICE, safe) -/
def leaveStream (p : Plane) (n : Nat) : Plane :=
  let p := (getS p n).held.foldl (fun p _ => returnHandle p n) p
  let s := getS p n
  if s.held = [] then setS p n (streamStarted (setFld s.img 190 189 0) s.owner s.slot s.epoch) else p

/-- The Crossing of an ENDED stream has released. -/
def idleEnded (p : Plane) (n : Nat) : Plane :=
  if sState (getS p n) = 2 then leaveStream (modS p n (fun s => { s with leaving := true })) n else p

/-- Streams whose handles still find no room. -/
def leaveStreams (p : Plane) : Plane := ((p.streams.filter (fun s => s.2.leaving)).map Prod.fst).foldl leaveStream p

def endedOf (p : Plane) (mask : Nat) : List Nat :=
  (p.streams.filter (fun s => sState s.2 == 2 && bit mask s.2.owner)).map Prod.fst

def releaseStreams (p : Plane) (mask : Nat) : Plane := (endedOf p mask).foldl idleEnded p

/-- Partitions for which the Crossing is a boundary (R257). -/
def boundaryOf (p : Plane) (mask : Nat) : List Nat :=
  upTo 8 (fun i => (getP p i).defined
    && (partVengs p i).any (fun v => bit mask v)
    && (liveTasks p i).all (fun t => bit mask t.1))

def crossRelease (cid : Nat) (p : Plane) : Plane :=
  match spGet p.cross cid with
  | none => p
  | some c =>
    if c.released ∨ c.arrived ≠ c.mask then p
    else
      let p := { p with cross := spPut p.cross cid { c with released := true } }
      let p := (upTo 64 (fun v => bit c.mask.toNat v)).foldl (fun p v =>
        modV p v (fun x => { x with arrivals := spPut x.arrivals cid .released })) p
      let p := releaseStreams p c.mask.toNat
      (boundaryOf p c.mask.toNat).foldl (fun p i => boundary p i (running p i) false) p

def crossStall (cid : Nat) (p : Plane) : Plane :=
  match spGet p.cross cid with
  | none => p
  | some c =>
    if c.released ∨ c.recorded = true then p
    else
      let v := ((upTo 64 (fun v => bit c.mask.toNat v)).headD 0)
      let p := { p with cross := spPut p.cross cid { c with recorded := true } }
      raise p .crossStall srcCore (partOf p v)
        (toLE 1 cid ++ toLE 8 c.mask.toNat ++ toLE 8 c.arrived.toNat) []

def execCrossStall (cid : Fin 64) (s : State) : Host.Outcome State Fault Refusal :=
  onPlane s (onReady (crossStall cid.val))

/-! ## SWAP (R138) -/

/-- Regions of the swapping part of half `h` of an engine. -/
def swapRegion (p : Plane) (v h : Nat) (r : Nat × Nat) : Bool :=
  r.1 == v && r.2 / 48 == h && bufPart (getV p v).bufCfg (r.2 % 48 * 512) == .swapping

def swapHeld (p : Plane) (v : Nat) : Bool :=
  let front := if (getV p v).frontB then 1 else 0
  p.flights.any (fun f => f.bufWr.any (swapRegion p v (1 - front)) || f.bufRd.any (swapRegion p v front))

def swapPlan (p : Plane) (e : Env) : Plan := { plan0 with holds := if swapHeld p e.v then [6] else [] }

def swapLoad (w : WLoad) : WLoad := if w.swapping then { w with swapped := true } else w

def swapRun (p : Plane) (e : Env) (_ : Nat) : Plane :=
  modV p e.v (fun x => { x with
    frontB := !x.frontB
    active := x.active.map swapLoad
    shadow := x.shadow.map swapLoad })

/-! ## WAIT (R189) -/

/-- (log 49: DESIGN CHOICE, unsafe) -/
def tagPending (p : Plane) (e : Env) (mask : Nat) : Bool :=
  p.flights.any (fun f => f.veng == e.v && f.slot == e.s && (match f.tag with
    | some t => bit mask t
    | none => false))

def tagPlan (tmask : BitVec 16) (p : Plane) (e : Env) : Plan :=
  { plan0 with
    holds := if tagPending p e tmask.toNat then [1] else []
    check := failCheck e tmask.toNat }

/-! ## CTX (R126, R127, R182) -/

def ctxAddr (e : Env) (f : CtxF) : Nat := memAddr (e.r f.mreg) f.moff

def ctxPlan (snap : Bool) (f : CtxF) (_ : Plane) (e : Env) : Plan :=
  { plan0 with
    head := (if snap || f.rst then [] else [.fieldRange]) ++ alignFault (ctxAddr e f) 64
    ctxs := [(e.rCtx f.creg, .any)]
    flies := snap
    memTrk := snap
    tag := some f.tag.toNat }

def ctxRun (snap : Bool) (f : CtxF) (p : Plane) (e : Env) (id : Nat) : Plane :=
  let k := e.rCtx f.creg
  let p := match snap, ctxGet p k with
    | true, some c => writeReqs p e.pi e.v e.s id (ctxAddr e f) (statImage p e.ep c)
    | _, _ => p
  if f.rst then statReset p e.pi e.ep k else p

/-! ## SEAL (R236) -/

/-- The first OPEN group that the task's slot owns, or that its exact load is about to open. -/
def openGroupOf (p : Plane) (v s : Nat) : Option Nat :=
  let x := getV p v
  match x.groups.find? (fun g => g.2.st == .opened && g.2.owner == s) with
  | some g => some g.1
  | none => ((p.flights.filter (fun f => f.veng == v && f.slot == s && (match f.finish with
      | .xload _ _ _ _ false => true
      | _ => false))).flatMap (fun f => f.groups.map Prod.fst)).head?

def closePlan (p : Plane) (e : Env) : Plan :=
  { plan0 with
    holds := if (getP p e.pi).committed + 1 < e.ep then [7] else []
    check := firstOf [(openGroupOf p e.v e.s).map (fun g => (.sealOpenGroup, groupBytes (getV p e.v) g)),
      failCheck e 0xFFFF]
    flies := true
    finish := .sealArrive }

/-- The checkpoint, the new epoch, the arrive. -/
def closeRun (dreg : BitVec 5) (p : Plane) (e : Env) (_ : Nat) : Plane :=
  let p := modT p e.v e.s (fun t =>
    let r := rPut t.regs dreg (epochNo (e.ep + 1))
    { t with
      regs := r
      epoch := e.ep + 1
      checks := (⟨e.ep, pcTo r (r.pc + 1), t.session⟩ :: t.checks).take 2 })
  let p := modP p e.pi (fun x => { x with lastClosed := max x.lastClosed e.ep })
  failEngine p e.pi e.v

def awaitPlan (p : Plane) (e : Env) : Plan :=
  { plan0 with holds := if (getP p e.pi).committed + 1 < e.ep then [7] else [] }

end Sys2Proof.Machine
end

