-- ==== Sys2Proof/Machine/Hub.lean ====
section
/-! DEFINITION. The hub's landings: remote runs into Squares (R105 to R108, R110), XSEND, and the close of a
Square with its total check (R231, R232). -/

namespace Sys2Proof.Machine

/-! ## Which Square takes a run (R105) -/

def squareEnd (s : Square) : Nat := s.offset + squareExtent s

/-- Squares of a GLOBAL_ID, partition and epoch, as (engine, index, record). -/
def squaresOf (p : Plane) (i n gid : Nat) : List (Nat × Nat × Square) :=
  (partVengs p i).flatMap (fun v =>
    ((getV p v).squares.filter (fun s => s.2.gid == gid && s.2.epoch == n)).map (fun s => (v, s.1, s.2)))

/-- A live Square comes before a RELEASED one of the same range. (log 132: DEDUCED, unsafe) -/
def squareAt (p : Plane) (i n gid k : Nat) : Option (Nat × Nat × Square) :=
  let l := (squaresOf p i n gid).filter (fun s => decide (s.2.2.offset ≤ k) && decide (k < squareEnd s.2.2))
  match l.find? (fun s => s.2.2.st != .released) with
  | some s => some s
  | none => l.head?

/-- Where the next Square above `k` begins. -/
def nextSquare (p : Plane) (i n gid k top : Nat) : Nat :=
  (squaresOf p i n gid).foldl (fun m s => if k < s.2.2.offset then min m s.2.2.offset else m) top

/-- The groups of the run's part of a Square are in the Plaza of an engine that is not moving (R108,
R115). -/
def squareHere (p : Plane) (v : Nat) (s : Square) (k n : Nat) : Bool :=
  let g0 := s.baseGrp + (k - s.offset) / 3072
  let g1 := s.baseGrp + (k + n - 1 - s.offset) / 3072
  s.st == .released || ((getV p v).moveTo.isNone
    && (List.range (g1 + 1 - g0)).all (fun j => !(getG (getV p v) (g0 + j)).spl))

/-! ## Landing -/

def rankOfRun (r : HeldRun) : Nat :=
  match r.src with
  | .packet _ _ k => k
  | _ => 0xFFFFFFFF

def entryCell (s : Square) (k : Nat) (a : Acc) (f : Int) : Cell :=
  let j := k - s.offset
  ⟨16 * s.baseGrp + j / 192, j % 192, a, f, 0, 0⟩

/-- The events of a landing that fall into the rows of its part. -/
def partEvents (s : Square) (k n : Nat) (ev : List ArrayEvent) : List ArrayEvent :=
  ev.filter (fun a => decide ((k - s.offset) / 192 ≤ a.row.toNat) && decide (a.row.toNat ≤ (k + n - 1 - s.offset) / 192))

/-- One part of a run meets its Square; the answer carries the outcome of R230. What is late is late whatever its floor
(log 31: DESIGN CHOICE, unsafe). Where the Plaza's checks stop the adds, the epoch rolls back and the part is
DISCARDED. -/
def landPart (r : HeldRun) (v q k : Nat) (as : List Acc) (p : Plane) : Plane × Nat :=
  match spGet (getV p v).squares q with
  | none => (p, 0)
  | some s =>
    if s.st ≠ .opened ∨ s.closeCnt * squareExtent s < s.tally + inFlightTally p v q + as.length then
      (lateContribution p r.part v s.owner q r.epoch 0 (rankOfRun r) k r.f (as.map (fun a => (a, r.f))), 4)
    else if r.f ≠ s.f then
      (countSquare v q as.length 0
        (floorMismatch p r.part r.epoch v s.owner srcHub s.gid k r.f (rankOfRun r)), 3)
    else
      let e := envTask p v s.owner r.part r.epoch (partEvents s k as.length r.ev)
      let c := arrayChecks e ⟨false, true⟩ (16 * s.baseGrp) s.m (groupBytes (getV p v)) [] e.i.ev p
      if c.2 then
        let p := modV c.1 v (fun x => (as.zipIdx).foldl (fun x a => addCell x (entryCell s (k + a.2) a.1 r.f)) x)
        (countSquare v q as.length (digestAccs s.dkey s.gid k as) p, 0)
      else (c.1, 1)

/-- The parts of a run that land now, in order; what finds no Square stays. Answer: plane, outcome, parts
that stay as (first index, entries). -/
def landWalk (r : HeldRun) : Nat → Nat → List Acc → Plane → Plane × Nat × List (Nat × List Acc)
  | 0, _, _, p => (p, 0, [])
  | fuel + 1, k, as, p =>
    if as = [] then (p, 0, [])
    else
      let top := k + as.length
      match squareAt p r.part r.epoch r.gid k with
      | none =>
        let m := nextSquare p r.part r.epoch r.gid k top - k
        let t := landWalk r fuel (k + m) (as.drop m) p
        (t.1, t.2.1, (k, as.take m) :: t.2.2)
      | some s =>
        let m := min (squareEnd s.2.2) top - k
        if squareHere p s.1 s.2.2 k m then
          let l := landPart r s.1 s.2.1 k (as.take m) p
          let t := landWalk r fuel (k + m) (as.drop m) l.1
          (t.1, max l.2 t.2.1, t.2.2)
        else
          let t := landWalk r fuel (k + m) (as.drop m) p
          (t.1, t.2.1, (k, as.take m) :: t.2.2)

def sibling (a b : HeldRun) : Bool := a.src == b.src && a.ack == b.ack && a.epoch == b.epoch && a.part == b.part

/-- Land what can land; the ACK goes out once no part of the packet is held. (log 40: DEDUCED, safe) -/
def landRun (p : Plane) (r : HeldRun) : Plane :=
  let t := landWalk r (r.accs.length + 1) r.offset r.accs p
  let p := t.1
  let out := max r.out t.2.1
  let p := { p with heldRuns := p.heldRuns.map (fun h => if sibling h r then { h with out := max h.out out } else h) }
  if t.2.2 = [] then
    if p.heldRuns.any (sibling r) then p
    else
      match r.ack with
      | some (g, k) => sendAck p r.part g k out
      | none => p
  else
    let rest := (t.2.2.zipIdx).map (fun x => { r with
      id := p.nextId + x.2
      offset := x.1.1
      accs := x.1.2
      out := out })
    { p with
      heldRuns := p.heldRuns ++ rest
      nextId := p.nextId + rest.length }

/-- A run that arrives: what is held counts in HUB_HELD (R367). -/
def landNew (p : Plane) (r : HeldRun) : Plane :=
  let q := landRun p r
  stallP q 4 (q.heldRuns.length - p.heldRuns.length)

/-- Try a held run again. -/
def retryRun (p : Plane) (id : Nat) : Plane :=
  match p.heldRuns.find? (fun r => r.id == id) with
  | none => p
  | some r =>
    if ((squaresOf p r.part r.epoch r.gid).any (fun s =>
        decide (s.2.2.offset < r.offset + r.accs.length) && decide (r.offset < squareEnd s.2.2)
          && squareHere p s.1 s.2.2 (max r.offset s.2.2.offset) 1)) then
      landRun { p with heldRuns := p.heldRuns.filter (fun x => x.id != id) } r
    else p

def retryRuns (p : Plane) : Plane := (p.heldRuns.map HeldRun.id).foldl retryRun p

/-- Split entries where their floor changes: (first index, floor, entries). -/
def floorRuns (k : Nat) : List (Acc × Int) → List (Nat × Int × List Acc)
  | [] => []
  | (a, f) :: t =>
    match floorRuns (k + 1) t with
    | (_, g, l) :: r => if g = f then (k, f, a :: l) :: r else (k, f, [a]) :: (k + 1, g, l) :: r
    | [] => [(k, f, [a])]

/-- Hand entries of this Plane to its own hub. -/
def deliver (p : Plane) (i n gid : Nat) (src : RunSrc) (k : Nat) (els : List (Acc × Int)) (ev : List ArrayEvent) : Plane :=
  (floorRuns k els).foldl (fun p r =>
    let id := p.nextId
    landNew { p with nextId := id + 1 } ⟨id, i, n, gid, r.1, r.2.2, r.2.1, src, none, 0, false, ev⟩) p

/-! ## XSEND (R105, R177) -/

/-- The events of an XSEND meet its tile's read and, by the rows of the Square, its landing. -/
def xsendRun (f : XferF) (p : Plane) (e : Env) (id : Nat) : Plane :=
  checkedRead p e f (fun p =>
    let els := exactRows p e f
    let gid := gidAt p (e.rCtx f.creg)
    deliver (exactRead p e f) e.pi e.ep gid (.engine id) (e.r36 f.xreg) els e.i.ev)

/-! ## The close of a Square (R106, R231, R232) -/

/-- The entries of a Square in logical order. -/
def squareAccs (x : VEng) (s : Square) : List Acc :=
  (List.range (squareExtent s)).map (fun j => getAcc x (16 * s.baseGrp + j / 192) (j % 192))

/-- A failed check of the digest duty (R232): the status bit in hardware mode, HOST_HOLD otherwise. -/
def checkStatus (p : Plane) (i n bitNo : Nat) : Plane :=
  modEp p i n (fun e => { e with
    status := e.status ||| BitVec.ofNat 16 (2 ^ (if dutyHw p i 2 then bitNo else 5)) })

def checkAcks (p : Plane) (i : Nat) : List Ack := if dutyHw p i 2 then [] else [.pn i 4]

/-- DOUT of the RS_X whose shard holds the Square (R240). -/
def shardOut (p : Plane) (i n gid : Nat) (s : Square) (as : List Acc) : Plane :=
  modEp p i n (fun e => { e with
    colls := e.colls.map (fun c =>
      if c.op = 1 ∧ gidAt p c.ctx = gid ∧ c.lo < squareEnd s ∧ s.offset < c.lo + c.len then
        let k0 := max c.lo s.offset
        let m := min (c.lo + c.len) (squareEnd s) - k0
        { c with dout := digestAdd c.dout (digestAccs s.dkey gid k0 ((as.drop (k0 - s.offset)).take m)) }
      else c) })

/-- The total check and the move to CLOSED (R231). -/
def closeSquare (v q i : Nat) (s : Square) (p : Plane) : Plane :=
  let as := squareAccs (getV p v) s
  let good := digestAccs s.dkey s.gid s.offset as == s.claim
  let p := shardOut p i s.epoch s.gid s as
  let p := if good then p
    else
      let acks := checkAcks p i
      let p := checkStatus (ledgerAdd p 1462 1) i s.epoch 1
      let gs := ((epGet (getP p i) s.epoch).colls.filter (fun c => gidAt p c.ctx == s.gid)).map CollEntry.gslot
      let p := (gs.foldl addNew []).foldl addBad p
      raise p .totalFail srcHub (some i)
        (dColl s.epoch 0 0 0 s.offset s.gid 0 ++ squareImage q { s with st := .closed }
          ++ toLE 4 (spGetD p.ledger.cnt (32 + homePort p v) 0)) acks
  modSq p v q (fun s => { s with st := .closed })

/-- The close reads the Square under the Plaza's checks (R102). -/
def squareClose (v q : Nat) (ev : List ArrayEvent) (p : Plane) : Plane :=
  match spGet (getV p v).squares q, partOf p v with
  | some s, some i =>
    if s.st ≠ .opened ∨ s.tally ≠ s.closeCnt * squareExtent s then p
    else
      let e := envTask p v s.owner i s.epoch ev
      checked e ⟨false, false⟩ (16 * s.baseGrp) s.m (groupBytes (getV p v)) (closeSquare v q i s) p
  | _, _ => p

/-- A held run has waited 2^24 counts (R108). -/
def squareUndeclared (id : Nat) (p : Plane) : Plane :=
  match p.heldRuns.find? (fun r => r.id == id), p.heldPkts.find? (fun k => k.id == id) with
  | some r, _ =>
    if r.recorded then p
    else
      let p := { p with heldRuns := p.heldRuns.map (fun x => if x.id = id then { x with recorded := true } else x) }
      raise p .squareUndeclared srcHub (some r.part) (toLE 32 (r.gid * 2 ^ 104 + r.offset * 2 ^ 128)) []
  | none, some k =>
    if k.recorded || k.pkt.ptype.toNat != 0 then p
    else
      let p := { p with heldPkts := p.heldPkts.map (fun x => if x.id = id then { x with recorded := true } else x) }
      raise p .squareUndeclared srcHub (some (gPart (getSlot p k.gslot)))
        (toLE 32 (k.pkt.globalId.toNat * 2 ^ 104 + k.pkt.offset.toNat * 2 ^ 128)) []
  | none, none => p

def execSquareUndeclared (run : Nat) (s : State) : Host.Outcome State Fault Refusal :=
  onPlane s (squareUndeclared run)

end Sys2Proof.Machine
end

