-- ==== Sys2Proof/Machine/Collective.lean ====
section
/-! DEFINITION. Collectives (R220 to R222, R226, R228): the descriptor, what each operation sends when it
issues, how it goes on when packets land, and when it completes. -/

namespace Sys2Proof.Machine

/-! ## The descriptor (R220) -/

def readDesc (p : Plane) (a : Nat) : Nat := memNatAt p a 128

def dOp (d : Nat) : Nat := bits d 7 0
def dSlot (d : Nat) : Nat := bits d 11 8
def dSrck (d : Nat) : Nat := bits d 13 12
def dRel (d : Nat) : Bool := bit d 14
def dCid (d : Nat) : Nat := bits d 31 16
def dCtx (d : Nat) : Nat := bits d 55 32
def dBgrp (d : Nat) : Nat := bits d 70 64
def dM (d : Nat) : Nat := bits d 81 71
def dOff (d : Nat) : Nat := bits d 131 96
def dCount (d : Nat) : Nat := bits d 195 160
def dShard (d : Nat) : Nat := bits d 255 224
def dRoot (d : Nat) : Nat := bits d 275 256
def dSrc (d : Nat) : Nat := bits d 339 288
def dDst (d : Nat) : Nat := bits d 403 352
def dNlist (d : Nat) : Nat := bits d 431 416
def dList (d : Nat) : Nat := bits d 531 480

def usesShards (op : Nat) : Bool := [1, 2, 3, 5, 6, 7].contains op
def usesCtx (op : Nat) : Bool := decide (1 ≤ op) && decide (op ≤ 7)
def usesList (op : Nat) : Bool := [8, 9, 10, 12].contains op

/-- The source is one of those the table of R221 gives the operation. -/
def srckOk (op k : Nat) : Bool :=
  if op = 1 then decide (k < 2) else if op = 2 then k == 0 else !usesCtx op || k == 2

def usesTile (d : Nat) : Bool := (dOp d == 1 || dOp d == 2) && dSrck d == 0

/-- (log 82: DESIGN CHOICE, unsafe) -/
def descBad (p : Plane) (i d : Nat) : Bool :=
  let op := dOp d
  let g := getSlot p (dSlot d)
  decide (op = 0) || decide (12 < op) || !gEn g || gPart g != i || decide (0xFFF0 ≤ dCid d)
    || !srckOk op (dSrck d) || decide (dShard d % 32 ≠ 0)
    || (usesCtx op && decide (2 ^ 36 < dOff d + dCount d))
    || (usesShards op && decide (gNactive g * dShard d < dCount d))
    || (usesTile d && (tileFaults (dBgrp d) (dM d) != [] || decide (dCount d ≠ dM d * 192)))
    || (usesList op && (decide (dNlist d = 0) || decide (dList d % 8 ≠ 0)))

def listIds (p : Plane) (op a n : Nat) : List (List Nat) :=
  (List.range n).map (fun j =>
    if op = 8 then
      let w := memNatAt p (a + 16 * j) 16
      [bits w 23 0, bits w 55 32, bits w 87 64]
    else [memNatAt p (a + 8 * j) 3])

/-! ## Collectives in progress -/

def putColl (p : Plane) (c : Coll) : Plane :=
  { p with colls := p.colls.map (fun x => if x.id = c.id then c else x) }

def getColl (p : Plane) (id : Nat) : Option Coll := p.colls.find? (fun c => c.id == id)

def modColl (p : Plane) (id : Nat) (f : Coll → Coll) : Plane :=
  { p with colls := p.colls.map (fun x => if x.id = id then f x else x) }

/-- Shard of a position as (first element, length). -/
def shardOf (c : Coll) (pos : Nat) : Nat × Nat :=
  let lo := c.offset + pos * c.shard
  (lo, min (lo + c.shard) (c.offset + c.count) - lo)

def ranksPos (p : Plane) (c : Coll) : List (Nat × Nat) := (activeRanks p c.gslot).zipIdx

/-- The shard of this Plane; empty when it is not ACTIVE. -/
def ownShard (p : Plane) (c : Coll) : Nat × Nat :=
  match (ranksPos p c).find? (fun r => r.1 == selfRank p c.gslot) with
  | some r => shardOf c r.2
  | none => (c.offset, 0)

/-- A packet of a collective to a rank. -/
def collPkt (p : Plane) (c : Coll) (g dst ptype k n : Nat) (payload : List Byte) : Packet :=
  { mkPkt p g dst ptype c.epoch c.cid k n false payload with
    globalId := BitVec.ofNat 24 (if usesCtx c.op then c.gid else 0) }

/-- Send packets to a rank; with `fin` the last one is this Plane's last of the collective to it and carries LAST. -/
def sendSeq (c : Coll) (g : Nat) (fin : Bool) (ks : List Packet) (p : Plane) : Plane :=
  (ks.zipIdx).foldl (fun p k =>
    sendPkt p c.part g (some c.id) { k.1 with last := fin && k.2 + 1 == ks.length }) p

/-- Phase 2 has nothing for the other members: this Plane's shard is empty, or there is no phase 2. -/
def onePhase (p : Plane) (c : Coll) : Bool := decide (c.op ∉ [2, 5, 6, 7]) || decide ((ownShard p c).2 = 0)

/-! ## Exact packets (R223, R224) -/

/-- The smallest E with every |X 2^F| below 2^E; -256 when every X is 0. -/
def omaxe (f : Int) (as : List Acc) : Int :=
  match (as.filter (fun a => a.x ≠ 0)).map (fun a => (bitLen a.x.natAbs : Int) + f) with
  | [] => -256
  | e :: t => t.foldl max e

/-- Whole groups of 32 entries in packets of at most 16 KiB: (first index, entries, bytes). -/
def packGroups (f : Int) : Nat → List (List Acc) → List (Nat × List Acc × List Byte)
  | _, [] => []
  | k, g :: t =>
    let b := xaftGroup f g
    match packGroups f (k + g.length) t with
    | [] => [(k, g, b)]
    | (j, l, x) :: r =>
      if (b ++ x).length ≤ 16384 then (k, g ++ l, b ++ x) :: r else (k, g, b) :: (j, l, x) :: r

def exactPkts (p : Plane) (c : Coll) (dst ptype k : Nat) (els : List (Acc × Int)) : List Packet :=
  (floorRuns k els).flatMap (fun r =>
    (packGroups r.2.1 r.1 (chunksOf 32 r.2.2.length r.2.2)).map (fun x =>
      { collPkt p c c.gslot dst ptype x.1 x.2.1.length x.2.2 with
        fmt := 0x1E
        f := BitVec.ofInt 10 r.2.1
        omaxe := BitVec.ofInt 16 (omaxe r.2.1 x.2.1)
        digest := BitVec.ofNat 64 (digestAccs c.key c.gid x.1 x.2.1) }))

/-- Each shard's part to its owner; this Plane's through the loopback (R221). -/
def sendExact (c : Coll) (els : List (Acc × Int)) (p : Plane) : Plane :=
  if !isActiveRank p c.gslot (selfRank p c.gslot) then p
  else
    (ranksPos p c).foldl (fun p r =>
      let sh := shardOf c r.2
      let part := (els.drop (sh.1 - c.offset)).take sh.2
      if part = [] then p
      else if r.1 = selfRank p c.gslot then
        deliver p c.part c.epoch c.gid (.loopback c.gslot c.cid) sh.1 part []
      else sendSeq c c.gslot (onePhase p c) (exactPkts p c r.1 0 sh.1 part) p) p

/-- Entries of this Plane's Squares in a range, once every Square there is CLOSED (R109). -/
def closedEntry (p : Plane) (i n gid k : Nat) : Option (Acc × Int) :=
  match squareAt p i n gid k with
  | none => none
  | some s =>
    if s.2.2.st = .closed then
      let c := entryCell s.2.2 k accZero s.2.2.f
      some (getAcc (getV p s.1) c.row c.col, s.2.2.f)
    else none

def closedRange (p : Plane) (c : Coll) (k n : Nat) : Option (List (Acc × Int)) :=
  (List.range n).foldr (fun j l =>
    match closedEntry p c.part c.epoch c.gid (k + j), l with
    | some a, some t => some (a :: t)
    | _, _ => none) (some [])

/-- Groups of this Plane's Squares that hold entries `k` to `k + n - 1`, as (engine, groups). -/
def squareGroups (p : Plane) (c : Coll) (k n : Nat) : List (Nat × List Nat) :=
  ((squaresOf p c.part c.epoch c.gid).filter (fun s =>
      decide (s.2.2.offset < k + n) && decide (k < squareEnd s.2.2) && s.2.2.st == .closed)).map (fun s =>
    let lo := max k s.2.2.offset - s.2.2.offset
    let hi := min (k + n) (squareEnd s.2.2) - 1 - s.2.2.offset
    (s.1, (List.range (hi / 3072 + 1 - lo / 3072)).map (fun j => s.2.2.baseGrp + lo / 3072 + j)))

/-- A collective that sends Squares moves their pending counts to its context (R94). -/
def takeSquares (c : Coll) (k n : Nat) (p : Plane) : Plane :=
  (squareGroups p c k n).foldl (fun p x => takePending p c.part c.epoch x.1 x.2 c.ctx) p

/-- Totals into the source tile of an AR_X. -/
def placeTile (c : Coll) (k : Nat) (as : List Acc) (p : Plane) : Plane :=
  let p := modV p c.veng (fun x => (as.zipIdx).foldl (fun x a =>
    let j := k + a.2 - c.offset
    setAcc x (16 * c.base + j / 192) (j % 192) a.1) x)
  modColl p c.id (fun c => { c with placed := c.placed + as.length })

/-! ## Line images in pieces (R221) -/

def perBlocks (f : Fmt) : Nat :=
  let k := elemOf f
  if f = .xaf136 then 16384 / 768
  else if fmtIsNx f then 16384 / nxRecordBytes k
  else if fmtIsMx f then 16384 / (blockElemBytes k + 1)
  else 16384 / (4 * elemBits k)

/-- Blocks `b` to `b + m - 1` of 32 of a line image of `n` elements, as (byte offset, length) spans. -/
def lineSpans (f : Fmt) (n b m : Nat) : List (Nat × Nat) :=
  let k := elemOf f
  if f = .xaf136 then [(768 * b, 24 * min (32 * m) (n - 32 * b))]
  else if fmtIsNx f then [(b * nxRecordBytes k, m * nxRecordBytes k)]
  else if fmtIsMx f then
    [(b * blockElemBytes k, m * blockElemBytes k), ((n + 31) / 32 * blockElemBytes k + b, m)]
  else [(4 * b * elemBits k, runBytes (elemBits k) (min (32 * m) (n - 32 * b)))]

def lineCut (f : Fmt) (n b m : Nat) (bs : List Byte) : List Byte :=
  (lineSpans f n b m).flatMap (fun s => (bs.drop s.1).take s.2)

/-- Write a piece at its place in the line image of `n` elements at `dst`. -/
def linePut (c : Coll) (f : Fmt) (b m : Nat) (bs : List Byte) (p : Plane) : Plane :=
  ((lineSpans f c.count b m).foldl (fun (a : Plane × List Byte) s =>
    (writeReqs a.1 c.part c.veng c.slot c.flight (c.dst + s.1) (a.2.take s.2), a.2.drop s.2)) (p, bs)).1

/-- Pieces of a line image of `n` elements whose first has logical index `k0`: (index, count, bytes). -/
def linePieces (f : Fmt) (k0 n : Nat) (bs : List Byte) : List (Nat × Nat × List Byte) :=
  let per := perBlocks f
  let nb := (n + 31) / 32
  (List.range ((nb + per - 1) / per)).map (fun j =>
    let m := min per (nb - j * per)
    (k0 + 32 * j * per, min (32 * m) (n - 32 * j * per), lineCut f n (j * per) m bs))

def sdataPkt (p : Plane) (c : Coll) (f : Fmt) (dst : Nat) (x : Nat × Nat × List Byte) : Packet :=
  { collPkt p c c.gslot dst 2 x.1 x.2.1 x.2.2 with
    fmt := BitVec.ofNat 8 (fmtCode f)
    digest := BitVec.ofNat 64 (digestLine f c.key c.gid x.1 x.2.1 x.2.2) }

def placeLine (c : Coll) (f : Fmt) (x : Nat × Nat × List Byte) (p : Plane) : Plane :=
  modColl (linePut c f ((x.1 - c.offset) / 32) ((x.2.1 + 31) / 32) x.2.2 p) c.id
    (fun c => { c with placed := c.placed + x.2.1 })

/-- Members that a BC reaches: ACTIVE and JOINING. -/
def bcRanks (p : Plane) (g : Nat) : List Nat :=
  ((peersOf p g).filter (fun e => (peerState e.2 == 1 || peerState e.2 == 2) && peerRank e.2 != selfRank p g)).map
    (fun e => peerRank e.2)

/-- Send a line image to ranks and place it here. -/
def spreadLine (c : Coll) (f : Fmt) (k0 n : Nat) (dsts : List Nat) (p : Plane) : Plane :=
  let bs := memAt p c.src (lineRaw f n)
  let p := readReqs p c.part c.veng c.slot c.flight c.src (lineRaw f n)
  let xs := linePieces f k0 n bs
  let p := dsts.foldl (fun p r => sendSeq c c.gslot true (xs.map (sdataPkt p c f r)) p) p
  xs.foldl (fun p x => placeLine c f x p) p

/-! ## Winner records and FP32 vectors -/

def itemSize (op : Nat) : Nat := if op = 7 then 4 else 16
def itemType (op : Nat) : Nat := if op = 7 then 4 else 3

/-- D of a run of items by their packet type (R224). -/
def itemDigest (c : Coll) (k : Nat) (bs : List Byte) : Nat :=
  digestWords c.key c.gid (if c.op = 7 then k else 0) (words32 bs)

def itemPkts (p : Plane) (c : Coll) (dst k : Nat) (bs : List Byte) : List Packet :=
  let sz := itemSize c.op
  let per := 16384 / sz
  ((chunksOf 16384 (bs.length / 16384 + 1) bs).zipIdx).map (fun x =>
    { collPkt p c c.gslot dst (itemType c.op) (k + x.2 * per) (x.1.length / sz) x.1 with
      fmt := BitVec.ofNat 8 (if c.op = 7 then fmtCode .fp32 else 0)
      digest := BitVec.ofNat 64 (itemDigest c (k + x.2 * per) x.1) })

def placeItems (c : Coll) (k : Nat) (bs : List Byte) (p : Plane) : Plane :=
  let sz := itemSize c.op
  modColl (writeReqs p c.part c.veng c.slot c.flight (c.dst + sz * (k - c.offset)) bs) c.id
    (fun c => { c with placed := c.placed + bs.length / sz })

/-- Key of what a rank of a group has sent. -/
def gotKey (g r : Nat) : Nat := g * 2 ^ 20 + r

/-- The bytes received under a key, in order of their first items, when they are `n` of `sz` bytes. -/
def insertPiece (x : Nat × List Byte) : List (Nat × List Byte) → List (Nat × List Byte)
  | [] => [x]
  | y :: t => if x.1 < y.1 then x :: y :: t else if x.1 = y.1 then y :: t else y :: insertPiece x t

def gotBytes (c : Coll) (key : Nat) : List Byte :=
  (((c.got.filter (fun g => g.1 == key)).foldl (fun l g => insertPiece g.2 l) []).map Prod.snd).flatten

def gotAll (c : Coll) (key sz n : Nat) : Option (List Byte) :=
  let b := gotBytes c key
  if b.length = sz * n then some b else none

/-- csum of R119 over the vectors of the positions. -/
def csumAt : Nat → List U32 → U32
  | 0, l => l.headD 0#32
  | fuel + 1, l =>
    if l.length ≤ 1 then l.headD 0#32
    else
      let h := 2 ^ (bitLen (l.length - 1) - 1)
      pAdd (csumAt fuel (l.take h)) (csumAt fuel (l.drop h))

/-- One combined item from the members' items, in position order. -/
def combine (op : Nat) (items : List (List Byte)) : List Byte :=
  if op = 7 then toLE 4 (csumAt 13 (items.map (fun b => BitVec.ofNat 32 (leNat b)))).toNat
  else winBytes ((winAll (op == 5) (items.map winRead)).getD ⟨.nan, 0⟩)

/-- The owner's combined shard, once every member's part is here. -/
def combined (p : Plane) (c : Coll) : Option (List Byte) :=
  let n := (ownShard p c).2
  let sz := itemSize c.op
  let parts := (activeRanks p c.gslot).foldr (fun r l =>
    match gotAll c (gotKey c.gslot r) sz n, l with
    | some b, some t => some (b :: t)
    | _, _ => none) (some [])
  parts.map (fun bs => (List.range n).flatMap (fun j => combine c.op (bs.map (fun b => (b.drop (sz * j)).take sz))))

/-- Each shard's items to its owner. -/
def sendItems (c : Coll) (p : Plane) : Plane :=
  let sz := itemSize c.op
  let bs := memAt p c.src (sz * c.count)
  let p := readReqs p c.part c.veng c.slot c.flight c.src (sz * c.count)
  if !isActiveRank p c.gslot (selfRank p c.gslot) then p
  else
    (ranksPos p c).foldl (fun p r =>
      let sh := shardOf c r.2
      let part := (bs.drop (sz * (sh.1 - c.offset))).take (sz * sh.2)
      if part = [] then p
      else if r.1 = selfRank p c.gslot then
        modColl p c.id (fun c => { c with got := c.got ++ [(gotKey c.gslot r.1, sh.1, part)] })
      else sendSeq c c.gslot (onePhase p c) (itemPkts p c r.1 sh.1 part) p) p

/-! ## List operations: PRE, DIGX, MAXX -/

/-- Outputs of a PRE in the order of the list: those whose GLOBAL_ID is in the pre-round set. -/
def preOuts (p : Plane) (c : Coll) : List Nat :=
  (c.list.map (fun l => l.headD 0)).foldl (fun a id =>
    match ctxAny p id with
    | some x => if (spGet (getP p c.part).preRound (ctxGid x)).isSome then addNew a id else a
    | none => a) []

def maxeOf (p : Plane) (id : Nat) : Int := ((ctxAny p id).map ctxMaxe).getD (-256)

/-- b of R228 for an output. -/
def preB (p : Plane) (c : Coll) (out : Nat) : Int :=
  let ps := (c.list.filter (fun l => l.headD 0 == out)).filterMap (fun l =>
    let a := maxeOf p (l.getD 1 0)
    let b := maxeOf p (l.getD 2 0)
    if a = -256 ∨ b = -256 then none else some (a + b))
  match ps with
  | [] => -128
  | x :: t =>
    let m := t.foldl max x
    clampInt (-128) 127 (-((-m) / 2))

/-- What this Plane brings to the exchange. -/
def listOwn (p : Plane) (c : Coll) : List Int :=
  if c.op = 8 then c.outs.map (preB p c)
  else c.list.map (fun l =>
    let x := (ctxAny p (l.headD 0)).getD 0
    if c.op = 12 then ctxMaxe x else (ctxDigest x : Int))

def listSize (op : Nat) : Nat := if op = 8 then 1 else if op = 12 then 4 else 8
def listType (op : Nat) : Nat := if op = 8 then 5 else if op = 12 then 9 else 6

def listBytes (op : Nat) (l : List Int) : List Byte :=
  l.flatMap (fun v =>
    if op = 8 then toLE 1 (unsigned 8 v) else if op = 12 then toLE 4 (unsigned 16 v) else toLE 8 v.toNat)

def listVals (op : Nat) (bs : List Byte) : List Int :=
  (chunksOf (listSize op) bs.length bs).map (fun b =>
    if op = 8 then signed 8 (leNat b) else if op = 12 then signed 16 (leNat (b.take 2)) else (leNat b : Int))

/-- Groups that an exchange passes through, from the inside out. -/
def levelsOf (p : Plane) (c : Coll) : List Nat :=
  if c.op = 9 ∨ c.op = 10 then [c.gslot]
  else (parentChain p c.gslot).takeWhile (fun g => g == c.gslot || isActiveRank p g (selfRank p g))

/-- This Plane's values to the other members of the present level. -/
def sendLevel (c : Coll) (p : Plane) : Plane :=
  match (levelsOf p c)[c.level]? with
  | none => p
  | some g =>
    if c.result = [] ∨ !isActiveRank p g (selfRank p g) then p
    else
      let sz := listSize c.op
      let bs := listBytes c.op c.result
      (others p g).foldl (fun p r =>
        let ks := ((chunksOf 16384 (bs.length / 16384 + 1) bs).zipIdx).map (fun x =>
          { collPkt p c g r (listType c.op) (x.2 * (16384 / sz)) (x.1.length / sz) x.1 with
            digest := BitVec.ofNat 64 (digestWords c.key0 0 0 (words32 x.1)) })
        sendSeq c g (((levelsOf p c).drop (c.level + 1)).all (fun h => !(others p h).contains r)) ks p) p

/-- Raise MAXE_CUR, as an update of epoch `n` (R71, R222). -/
def raiseMaxe (i n : Nat) (p : Plane) (x : Nat × Int) : Plane :=
  ctxUpd p i n x.1 (fun c =>
    let c := ctxFirst c n
    setSfld c 271 256 (max (ctxMaxe c) x.2))

/-- What the members of the level have sent, this Plane first where it stands. -/
def levelVals (p : Plane) (c : Coll) (g : Nat) : Option (List (List Int)) :=
  (activeRanks p g).foldr (fun r l =>
    let v := if r = selfRank p g then some c.result
      else (gotAll c (gotKey g r) (listSize c.op) c.result.length).map (listVals c.op)
    match v, l with
    | some x, some t => some (x :: t)
    | _, _ => none) (some [])

def zipMax (ls : List (List Int)) (own : List Int) : List Int :=
  ls.foldl (fun a l => (a.zip l).map (fun x => max x.1 x.2)) own

/-- The end of a list operation: fields or memory take the result. -/
def listDone (c : Coll) (vals : List (List Int)) (p : Plane) : Plane :=
  let p := modColl p c.id (fun c => { c with done := true })
  let put (p : Plane) (l : List Int) : Plane :=
    writeReqs p c.part c.veng c.slot c.flight c.dst (l.flatMap (fun v => toLE 8 v.toNat))
  if c.op = 8 then
    (c.outs.zip c.result).foldl (fun p x =>
      ctxUpd p c.part c.epoch x.1 (fun k => setSfld k 137 128 (clampInt (-512) 511 (2 * x.2 - 104)))) p
  else if c.op = 12 then
    ((c.list.map (fun l => l.headD 0)).zip c.result).foldl (raiseMaxe c.part c.epoch) p
  else if c.op = 9 then
    put p (vals.foldl (fun a l => (a.zip l).map (fun x => ((digestAdd x.1.toNat x.2.toNat : Nat) : Int)))
      (c.result.map (fun _ => 0)))
  else put p vals.flatten

def listStep (c : Coll) (p : Plane) : Plane :=
  match (levelsOf p c)[c.level]? with
  | none => listDone c [c.result] p
  | some g =>
    match levelVals p c g with
    | none => p
    | some vals =>
      if c.op = 9 ∨ c.op = 10 then listDone c vals p
      else
        let c := { c with
          result := zipMax vals c.result
          level := c.level + 1 }
        let p := putColl p c
        if c.level < (levelsOf p c).length then sendLevel c p else listDone c vals p

/-! ## Progress -/

/-- The format of a line image: one with codes, or XAF-136 (R36, R170). (log 82: DESIGN CHOICE, unsafe) -/
def fmtOf (c : Coll) : Option Fmt := c.fmt.filter (fun f => f == .xaf136 || (fmtElem f).isSome)

/-- Totals of this Plane's shard to every member (AR_X). -/
def spreadTotals (c : Coll) (els : List (Acc × Int)) (p : Plane) : Plane :=
  let sh := ownShard p c
  let p := modColl (takeSquares c sh.1 sh.2 p) c.id (fun c => { c with spread := true })
  let p := (others p c.gslot).foldl (fun p r => sendSeq c c.gslot true (exactPkts p c r 1 sh.1 els) p) p
  placeTile c sh.1 (els.map Prod.fst) p

/-- One collective goes on as far as it can. -/
def collStep (p : Plane) (id : Nat) : Plane :=
  match getColl p id with
  | none => p
  | some c =>
    if usesList c.op then (if c.done then p else listStep c p)
    else if c.spread then p
    else if c.op = 1 then
      match closedRange p c c.offset c.count with
      | some els => sendExact c els (modColl (takeSquares c c.offset c.count p) id (fun c => { c with spread := true }))
      | none => p
    else if c.op = 2 then
      match closedRange p c (ownShard p c).1 (ownShard p c).2 with
      | some els => spreadTotals c els p
      | none => p
    else
      match combined p c with
      | some bs =>
        let sh := ownShard p c
        let p := modColl p id (fun c => { c with spread := true })
        let p := (others p c.gslot).foldl (fun p r =>
          if bs = [] then p else sendSeq c c.gslot true (itemPkts p c r sh.1 bs) p) p
        placeItems c sh.1 bs p
      | none => p

def collsProgress (p : Plane) : Plane :=
  (p.colls.map Coll.id).foldl (fun p id => collStep (collStep (collStep p id) id) id) p

/-! ## Issue -/

/-- What the operation does when it issues. -/
def collStart (c : Coll) (p : Plane) : Plane :=
  let spreadNow (p : Plane) : Plane := modColl p c.id (fun c => { c with spread := true })
  match c.op with
  | 1 =>
    if c.srck = 0 then
      let gs := tileGroups c.base c.m
      let els := (tileRows (getV p c.veng) (16 * c.base) c.m 192).flatten
      let p := takePending p c.part c.epoch c.veng gs c.ctx
      let p := if c.rel then releaseTile p c.veng gs else p
      sendExact c els (spreadNow p)
    else p
  | 2 =>
    let els := (tileRows (getV p c.veng) (16 * c.base) c.m 192).flatten
    sendExact c els (takePending p c.part c.epoch c.veng (tileGroups c.base c.m) c.ctx)
  | 3 =>
    match fmtOf c with
    | none => p
    | some k =>
      let sh := ownShard p c
      spreadLine c k sh.1 sh.2 (others p c.gslot) (spreadNow p)
  | 4 =>
    match fmtOf c with
    | none => p
    | some k =>
      if c.root = selfRank p c.gslot then spreadLine c k c.offset c.count (bcRanks p c.gslot) (spreadNow p)
      else spreadNow p
  | 11 =>
    modColl (writeReqs p c.part c.veng c.slot c.flight c.dst (toLE 32 (getSlot p c.gslot).toNat)) c.id
      (fun c => { c with done := true })
  | _ =>
    if usesList c.op then
      let p := (c.list.flatMap id).foldl pageNow p
      let c := { c with outs := if c.op = 8 then preOuts p c else [] }
      let c := { c with result := listOwn p c }
      sendLevel c (putColl p c)
    else sendItems c p

def collOf (p : Plane) (e : Env) (id d : Nat) : Coll :=
  let x := (ctxAny p (dCtx d)).getD 0
  { id := id
    flight := id
    veng := e.v
    slot := e.s
    part := e.pi
    epoch := e.ep
    op := dOp d
    gslot := dSlot d
    cid := dCid d
    ctx := dCtx d
    fmt := if usesCtx (dOp d) then ctxFmt x else none
    gid := if usesCtx (dOp d) then ctxGid x else 0
    key := if usesCtx (dOp d) then dkeyAt p e.pi (ctxDKey x) else dkeyAt p e.pi 0
    key0 := dkeyAt p e.pi 0
    rel := dRel d
    srck := dSrck d
    base := dBgrp d
    m := dM d
    offset := dOff d
    count := dCount d
    shard := dShard d
    root := dRoot d
    src := dSrc d
    dst := dDst d
    list := if usesList (dOp d) then listIds p (dOp d) (dList d) (dNlist d) else []
    outs := []
    level := 0
    result := []
    got := []
    placed := 0
    done := false
    spread := false
    dout := 0 }

/-- The entry of the Milestone body (R240), and LIST_FULL. -/
def noteColl (p : Plane) (c : Coll) : Plane :=
  let sh := if c.op = 1 then ownShard p c else (0, 0)
  let x : CollEntry := ⟨gGgid (getSlot p c.gslot), c.cid, c.op, 0, c.gslot, c.ctx, sh.1, sh.2⟩
  modEp p c.part c.epoch (fun e =>
    if 65536 ≤ e.colls.length then { e with status := e.status ||| 0x10 } else { e with colls := e.colls ++ [x] })

/-- A listed context is defined and the partition's (R80). -/
def listFault (p : Plane) (e : Env) (d : Nat) : Option (Code × List Byte) :=
  let ids := (listIds p (dOp d) (dList d) (dNlist d)).flatMap id
  let lost := ids.filter (fun c => ((ctxAny p c).map (roleOk .any)) != some true)
  let away := ids.filter (fun c => ((ctxAny p c).map ctxPart) != some e.pi)
  if lost != [] then some (.ctxPageBad, ctxImage lost)
  else if away != [] then some (.partViolation, ctxImage away)
  else none

def collPlan (f : XferF) (p : Plane) (e : Env) : Plan :=
  let a := xAddr e f
  let d := readDesc p a
  let ok := !descBad p e.pi d
  let tile := ok && usesTile d
  let gs := if tile then tileGroups (dBgrp d) (dM d) else []
  let x := getV p e.v
  { memPlan f with
    head := alignFault a 128
    ctxs := if ok && usesCtx (dOp d) then [(dCtx d, .any)] else []
    holds := if readWaits x gs then [3] else []
    check := if ok && usesList (dOp d) then listFault p e d else readFault x gs
    groups := gs.map (fun g => (g, if dOp d = 2 then .ovw else .read))
    release := tile && dRel d && dOp d == 1 }

def collDesc (p : Plane) (e : Env) (d : Nat) : Plane :=
  raise p .collDesc srcHub (some e.pi)
    (dColl e.ep (dCid d) (gGgid (getSlot p (dSlot d))) (selfRank p (dSlot d)) (dOff d) 0 0 ++ gImage p (dSlot d)) []

def collRun (f : XferF) (p : Plane) (e : Env) (id : Nat) : Plane :=
  let a := xAddr e f
  let d := readDesc p a
  let p := readReqs p e.pi e.v e.s id a 128
  if !(inWindow p e.pi a 128) then p
  else
    let c := collOf p e id d
    if descBad p e.pi d || ((dOp d == 3 || dOp d == 4) && (fmtOf c).isNone) then
      collDesc (failFlight p id []) e d
    else
      let go (p : Plane) : Plane :=
        let p := modFlight p id (fun x => { x with
          finish := .coll id
          groups := if dOp d = 1 then [] else x.groups })
        collStart c (noteColl { p with colls := p.colls ++ [c] } c)
      if usesTile d then checked e ⟨false, false⟩ (16 * c.base) c.m (issueDesc p e false 0) go p else go p

/-! ## Completion (R221, R230, R240) -/

def collWaiting (p : Plane) (id : Nat) : Bool := p.sent.any (fun s => s.coll == some id)

def loopHeld (p : Plane) (c : Coll) : Bool :=
  p.heldRuns.any (fun r => r.src == .loopback c.gslot c.cid && r.part == c.part && r.epoch == c.epoch)

/-- This Plane's part is done. -/
def collReady (p : Plane) (c : Coll) : Bool :=
  let failed := p.flights.any (fun f => f.id == c.flight && f.failed)
  !collWaiting p c.id && (failed
    || (if usesList c.op || c.op == 11 then c.done
      else if c.op = 1 then c.spread && !loopHeld p c
      else c.spread && decide (c.count ≤ c.placed)))

/-- DOUT (R240). -/
def collOut (p : Plane) (c : Coll) : Nat :=
  let key := c.key
  let gid := c.gid
  match c.op with
  | 2 => digestAccs key gid c.offset (((tileRows (getV p c.veng) (16 * c.base) c.m 192).flatten).map Prod.fst)
  | 3 | 4 =>
    match fmtOf c with
    | some k => digestLine k key gid c.offset c.count (memAt p c.dst (lineRaw k c.count))
    | none => 0
  | 5 | 6 => digestWords key gid 0 (words32 (memAt p c.dst (16 * c.count)))
  | 7 => digestWords key gid c.offset (words32 (memAt p c.dst (4 * c.count)))
  | _ => 0

/-- A completed collective leaves the hub. -/
def collFinish (p : Plane) (id : Nat) : Plane :=
  match getColl p id with
  | none => p
  | some c =>
    let d := collOut p c
    let p := if c.op = 1 then p
      else modEp p c.part c.epoch (fun e => { e with
        colls := e.colls.map (fun x =>
          if x.gslot = c.gslot ∧ x.cid = c.cid ∧ x.op = c.op then { x with dout := d } else x) })
    { p with colls := p.colls.filter (fun x => x.id != id) }

end Sys2Proof.Machine
end

