-- ==== Sys2Proof/Machine/Epoch.lean ====
section
/-! DEFINITION. Epochs: the implicit close (R235), the release of the seal Crossing (R236), the Milestone
(R226, R238 to R242, R364), the seal (R243 to R247), commit (R248), and the restart barrier's events (R254). -/

namespace Sys2Proof.Machine

/-! ## Arrival at the seal Crossing (R156, R235, R236) -/

def bit64 (w : BitVec 64) (v : Nat) : Bool := bit w.toNat v

/-- Streams and the sequence of an engine that belong to epochs up to `n` have done their last index. -/
def flowsDone (p : Plane) (v n : Nat) : Bool :=
  (streamsOf p v).all (fun k => decide (n < (getS p k).epoch) || streamDone (getS p k))
    && (match (getV p v).ring with
      | none => true
      | some q => decide (n < q.epoch) || seqDone q)

/-- They end. -/
def endFlows (n : Nat) (p : Plane) (v : Nat) : Plane :=
  let p := ((streamsOf p v).filter (fun k => decide ((getS p k).epoch ≤ n))).foldl
    (fun p k => modS p k (fun s => setState s 2)) p
  modV p v (fun x => { x with
    ring := x.ring.map (fun q => if q.epoch ≤ n then { q with ended := true } else q) })

/-- Work of a partition in epochs up to `n` that has not completed. -/
def epochBusy (p : Plane) (i n : Nat) : Bool := p.flights.any (fun f => f.part == i && decide (f.epoch ≤ n))

/-- The seal arrive `fid` of an engine may complete: all that it issued before is complete. (log 83: DESIGN CHOICE, unsafe) -/
def sealReady (p : Plane) (v n fid : Nat) : Bool :=
  !p.flights.any (fun f => f.veng == v && decide (f.id < fid) && f.finish != .sealArrive && (match f.finish with
    | .crossArrive _ => false
    | _ => true))
    && flowsDone p v n

def markArrived (i n : Nat) (p : Plane) (v : Nat) : Plane :=
  modEp p i n (fun e => { e with arrived := setBit64 e.arrived v })

/-- A SEAL CLOSE completes as an arrive on the seal Crossing. -/
def sealArriveDone (f : Flight) (p : Plane) : Plane :=
  if sealReady p f.veng f.epoch f.id then
    markArrived f.part f.epoch (endFlows f.epoch (failEngine (dropFlight p f.id) f.part f.veng) f.veng) f.veng
  else p

/-- Groups left OPEN by slots that are FREE (R235 step 2). -/
def freeOrphans (p : Plane) (v : Nat) : Plane :=
  modV p v (fun x => ((x.groups.filter (fun g => g.2.st == .opened
    && ((spGet x.tasks g.2.owner).map Task.st).getD .free == .free)).map Prod.fst).foldl releaseGroup x)

/-- (log 86: DESIGN CHOICE, unsafe) -/
def implicitClose (i : Nat) (p : Plane) : Plane :=
  let x := getP p i
  let n := x.committed + 1
  let e := epGet x n
  let all := vmaskOf p i
  if !e.implicitClose || e.phase != .running || e.arrived.toNat == all || x.rollback.isSome
      || epochBusy p i n || !(partVengs p i).all (fun v => flowsDone p v n) then p
  else
    (partVengs p i).foldl (fun p v => markArrived i n (endFlows n (freeOrphans p v) v) v) p

/-! ## Release of the seal Crossing (R238, R257, R368) -/

/-- (log 84: DESIGN CHOICE, safe) -/
def noneStopped (p : Plane) (i : Nat) : Bool := (liveTasks p i).all (fun t => t.2.2.st != .stopped)

def releasable (p : Plane) (i : Nat) : Bool :=
  let x := getP p i
  let n := x.committed + 1
  let e := epGet x n
  x.defined && x.rollback.isNone && x.halted.isNone && x.epochs.any (fun y => y.n == n)
    && e.phase == .running && (!e.implicitClose || e.arrived.toNat == vmaskOf p i)
    && decide (n ≤ x.lastClosed) && (liveTasks p i).all (fun t => decide (n < t.2.2.epoch))
    && noneStopped p i && !epochBusy p i n

def partRegions (p : Plane) (i : Nat) : List Nat := upTo 8 (fun r => bit (getP p i).regions.toNat r)

/-- Contexts of a partition that firmware holds as defined. -/
def partCtxs (p : Plane) (i : Nat) : List Nat :=
  p.gaz.defined.filter (fun id => ((ctxAny p id).map ctxPart) == some i)

/-- The partition as a rollback to Milestone `n` restores it. -/
def takeSnap (p : Plane) (i n : Nat) : Snapshot :=
  let x := getP p i
  { epoch := n
    ctxs := (partCtxs p i).foldl (fun t id =>
      spPut t id (((spGet (epGet x n).keptCtx id).orElse (fun _ => ctxAny p id)).getD 0)) []
    settings := x.settings
    coef := forN x.coefCount [] (fun t k => match spGet p.coef (x.coefFirst + k) with
      | some ws => spPut t (x.coefFirst + k) ws
      | none => t)
    preRound := x.preRound }

def putSnap (p : Plane) (i : Nat) (s : Snapshot) : Plane :=
  modP p i (fun x => { x with snaps := x.snaps.filter (fun y => y.epoch != s.epoch) ++ [s] })

def slackSnap (g : Region) : Sparse Nat :=
  spPut (spPut g.stalls 12 g.slackImage) 13 (g.tempImage + 128).toNat

/-- The counters as the release finds them. -/
def snapCounters (p : Plane) (i n : Nat) : Plane :=
  let rs := partRegions p i
  let p := modEp p i n (fun e => { e with
    phase := .released
    relRoc := p.pins.refRoc
    snapV := (partVengs p i).foldl (fun t v => spPut t v (getV p v).stalls) []
    snapR := rs.foldl (fun t r => spPut t r (slackSnap (getRg p r))) []
    snapP := p.stalls })
  rs.foldl (fun p r => modRg p r (fun g => { g with
    slackImage := 255
    tempImage := -128
    parity := 0 })) p

def idleUpTo (i n : Nat) (p : Plane) : Plane :=
  ((p.streams.filter (fun s => sState s.2 == 2 && decide (s.2.epoch ≤ n)
    && partOf p s.2.owner == some i)).map Prod.fst).foldl idleEnded p

/-- (log 85: DESIGN CHOICE, unsafe) -/
def sealRelease (i : Nat) (p : Plane) : Plane :=
  if !releasable p i then p
  else
    let n := (getP p i).committed + 1
    let p := boundary (idleUpTo i n (snapCounters p i n)) i n true
    putSnap p i (takeSnap p i n)

/-! ## Step 1 of the Milestone (R112, R238) -/

def ofEpoch (x : VEng) (n q : Nat) : Bool := ((spGet x.squares q).map (fun s => s.epoch == n)).getD false

def dropSquareGroup (n : Nat) (x : VEng) (g : Nat) : VEng :=
  let d := getG x g
  match d.st with
  | .square q => if ofEpoch x n q then setG (clearGroup x g) g Group.init else x
  | _ =>
    match d.past with
    | some q => if ofEpoch x n q then setG x g { d with past := none } else x
    | none => x

def freeSquares (n : Nat) (p : Plane) (v : Nat) : Plane :=
  modV p v (fun x =>
    let x := (spKeys x.groups).foldl (dropSquareGroup n) x
    { x with squares := x.squares.filter (fun s => s.2.epoch != n) })

def openSquares (p : Plane) (i n : Nat) : Bool :=
  (partVengs p i).any (fun v => (getV p v).squares.any (fun s => s.2.epoch == n && s.2.st == .opened))

/-- COLL_ORPHAN with the run's number, group, rank, offset and GLOBAL_ID (R214, R232). (log 87: DESIGN CHOICE, unsafe) -/
def orphan (i n cid g rank off gid : Nat) (p : Plane) : Plane :=
  raise p .collOrphan srcHub (some i) (dColl n cid (gGgid (getSlot p g)) rank off gid 0 ++ gImage p g) []

def orphanRun (i n : Nat) (p : Plane) (r : HeldRun) : Plane :=
  match r.src with
  | .packet g cid rank => orphan i n cid g rank r.offset r.gid p
  | .loopback g cid => orphan i n cid g (selfRank p g) r.offset r.gid p
  | .engine _ => raise p .collOrphan srcHub (some i) (dColl n 0 0 0 r.offset r.gid 0) []

/-- Answer every packet of the list once with ACK DISCARDED. -/
def ackGone (i : Nat) (l : List (Nat × Packet)) (p : Plane) : Plane :=
  (l.foldl (fun (a : Plane × List (Nat × Packet)) k =>
    if a.2.contains k then a else (sendAck a.1 i k.1 k.2 1, k :: a.2)) (p, [])).1

/-- Runs and packets of epoch `n` that the hub still holds. -/
def dropOrphans (i n : Nat) (p : Plane) : Plane :=
  let runs := p.heldRuns.filter (fun r => r.part == i && r.epoch == n)
  let pkts := p.heldPkts.filter (fun k => gPart (getSlot p k.gslot) == i && k.pkt.epoch.toNat == n
    && decide (k.pkt.cid.toNat < 0xFFF0))
  if runs.isEmpty && pkts.isEmpty then p
  else
    let p := runs.foldl (orphanRun i n) p
    let p := pkts.foldl (fun p k => orphan i n k.pkt.cid.toNat k.gslot k.pkt.srcRank.toNat
      k.pkt.offset.toNat k.pkt.globalId.toNat p) p
    let p := { p with
      heldRuns := p.heldRuns.filter (fun r => !runs.contains r)
      heldPkts := p.heldPkts.filter (fun k => !pkts.contains k) }
    let p := ackGone i (runs.filterMap HeldRun.ack ++ pkts.map (fun k => (k.gslot, k.pkt))) p
    modEp p i n (fun e => { e with status := e.status ||| 4 })

def msFree (i n : Nat) (p : Plane) : Plane :=
  let p := if openSquares p i n then modEp p i n (fun e => { e with status := e.status ||| 4 }) else p
  dropOrphans i n ((partVengs p i).foldl (freeSquares n) p)

/-! ## The maximum-exponent exchange (R226) -/

/-- Contexts that COLLs of a group named in the epoch. -/
def epochCtxs (p : Plane) (i n g : Nat) : List Nat :=
  (((epGet (getP p i) n).colls.filter (fun c => c.gslot == g && usesCtx c.op)).map CollEntry.ctx).foldl addNew []

def innerSlots (p : Plane) (i g : Nat) : List Nat :=
  (slotsOf p i).filter (fun h => h != g && gPv (getSlot p h) && gParent (getSlot p h) == g)

/-- A group's exchange list, with the lists that repeat in it. -/
def exchCtxs (p : Plane) (i n : Nat) : Nat → Nat → List Nat
  | 0, g => epochCtxs p i n g
  | k + 1, g => (innerSlots p i g).foldl (fun l h => (exchCtxs p i n k h).foldl addNew l) (epochCtxs p i n g)

def exchGids (p : Plane) (i n g : Nat) : List Nat :=
  ((exchCtxs p i n 3 g).map (fun id => ((ctxAny p id).map ctxGid).getD 0)).foldl addNew []

def maxPair (a b : Int × Int) : Int × Int := (max a.1 b.1, max a.2 b.2)

def noExp : Int × Int := (-256, -256)

/-- Epoch values of GMAXE_CUR and YGMAXE_CUR (R71). -/
def epochVals (n : Nat) (c : Cx) : Int × Int :=
  if ctxTag c = n then (ctxGmaxe c, ctxYgmaxe c)
  else if ctxHoldMode c then (ctxGmaxe c, -256)
  else noExp

/-- Key of what a rank of a slot sent under a collective number (R245). -/
def pieceKey (cid g r : Nat) : Nat := cid % 16 * 2 ^ 24 + g * 2 ^ 20 + r

/-- What a group's other members sent for a GLOBAL_ID. -/
def exchGot (e : EpRec) (g gid : Nat) : Int × Int :=
  (e.pieces.filter (fun k => k.1 / 2 ^ 20 == g && k.2.1 % 2 ^ 24 == gid && !k.2.2.2.isEmpty)).foldl (fun m k =>
    maxPair m (signed 16 (leNat (k.2.2.2.take 2)), signed 16 (leNat ((k.2.2.2.drop 2).take 2)))) noExp

/-- This Plane's value for a GLOBAL_ID in a group: its contexts' and the inner groups' results. -/
def exchOwn (p : Plane) (i n gid : Nat) : Nat → Nat → Int × Int
  | 0, g => (((epochCtxs p i n g).filterMap (ctxAny p)).filter (fun c => ctxGid c == gid)).foldl
      (fun m c => maxPair m (epochVals n c)) noExp
  | k + 1, g => (innerSlots p i g).foldl (fun m h =>
      maxPair m (maxPair (exchOwn p i n gid k h) (exchGot (epGet (getP p i) n) h gid)))
      ((((epochCtxs p i n g).filterMap (ctxAny p)).filter (fun c => ctxGid c == gid)).foldl
        (fun m c => maxPair m (epochVals n c)) noExp)

def exchTakesPart (p : Plane) (i n g : Nat) : Bool :=
  !(exchGids p i n g).isEmpty && isActiveRank p g (selfRank p g)

/-- A member with no list in a group sends one LAST packet without items, so that those who list contexts know that it
lists none (log 88: DESIGN CHOICE, unsafe). -/
def exchSends (p : Plane) (g : Nat) : Bool := isActiveRank p g (selfRank p g)

/-- Every packet of every other ACTIVE member has arrived, in any order (R221). -/
def exchDone (p : Plane) (i n g : Nat) : Bool :=
  !exchTakesPart p i n g || ((others p g).all (fun r =>
    let ps := (epGet (getP p i) n).pieces.filter (fun k => k.1 == pieceKey 0 g r)
    ps.any (fun k => k.2.2.1 && decide ((k.2.1 / 2 ^ 24 + 1) % 4096 = ps.length % 4096))))

/-- (log 88: DESIGN CHOICE, unsafe) -/
def expBytes (v : Int × Int) : List Byte := toLE 2 (unsigned 16 v.1) ++ toLE 2 (unsigned 16 v.2)

/-- MAXE packets, one a context: OFFSET holds its GLOBAL_ID and, above it, its place in the list. -/
def exchSend (i n : Nat) (p : Plane) (g : Nat) : Plane :=
  let e := epGet (getP p i) n
  if e.exchSent.contains g || !exchSends p g || !(innerSlots p i g).all (exchDone p i n) then p
  else
    let gids := exchGids p i n g
    let vs := gids.map (fun gid => (gid, expBytes (exchOwn p i n gid 3 g)))
    let p := (others p g).foldl (fun p r => (vs.zipIdx).foldl (fun p x =>
      sendPkt p i g none (wordPkt p i g r 7 n 0 (x.1.1 + x.2 % 4096 * 2 ^ 24) 1 (x.2 + 1 == vs.length) x.1.2))
      (if vs = [] then sendPkt p i g none (wordPkt p i g r 7 n 0 0 0 true []) else p)) p
    modEp p i n (fun e => { e with exchSent := e.exchSent ++ [g] })

def exchStep (i n : Nat) (p : Plane) : Plane := (slotsOf p i).foldl (exchSend i n) p

/-- The group maximum of a context that is on an exchange list. -/
def exchResult (p : Plane) (i n id gid : Nat) : Option (Int × Int) :=
  let gs := (slotsOf p i).filter (fun g => (exchCtxs p i n 3 g).contains id)
  if gs.isEmpty then none
  else some (gs.foldl (fun m g =>
    maxPair m (maxPair (exchOwn p i n gid 3 g) (exchGot (epGet (getP p i) n) g gid))) noExp)

/-! ## Rotation and delayed scaling (R71, R58) -/

def putExp (c : Cx) (hi lo : Nat) (v : Int) : Cx := if v = -256 then c else setSfld c hi lo v

/-- σ_new of R58. -/
def delayedScale (hw : Bool) (c : Cx) : Cx :=
  match ctxFmt c with
  | none => c
  | some f =>
    match emaxF f with
    | none => c
    | some m =>
      if hw && ctxOsigSrc c && decide (ctxYgmaxePrev c ≠ -256) then
        setSfld c 167 160 (clampInt (-128) 127 (m - ctxYgmaxePrev c - (ctxMargin c : Int)))
      else c

def rotateCtx (hw : Bool) (n : Nat) (res : Option (Int × Int)) (c : Cx) : Cx :=
  if ctxIsUpd c || (decide (ctxTag c ≠ n) && res.isNone) then c
  else
    let v := res.getD (epochVals n c)
    let c := if ctxTag c = n then setFld (setFld c 287 272 (fld c 271 256)) 351 336 (fld c 335 320) else c
    delayedScale hw (putExp (putExp c 319 304 v.1) 383 368 v.2)

/-- Rotation of every context of the partition, and of the account that a rollback restores. -/
def rotateAll (i n : Nat) (p : Plane) : Plane :=
  let hw := dutyHw p i 1
  let res (id : Nat) (c : Cx) : Option (Int × Int) := exchResult p i n id (ctxGid c)
  let snaps := (getP p i).snaps.map (fun s =>
    if s.epoch = n then { s with
      ctxs := s.ctxs.map (fun c => (c.1, rotateCtx hw n (res c.1 c.2) c.2)) } else s)
  let q := (partCtxs p i).foldl (fun q id =>
    match ctxAny p id with
    | none => q
    | some c =>
      let d := rotateCtx hw n (res id c) c
      if d = c then q else ctxPutAny q id d) p
  modP q i (fun x => { x with snaps := snaps })

/-! ## Images (R128, R364 to R368) -/

def histAddr (p : Plane) (n h : Nat) : Nat := (p.regs.histBase.toNat + 2 ^ 20 * (n % 2) + 256 * h) % 2 ^ 52

def writeHist (i n : Nat) (p : Plane) : Plane :=
  let hs := ((epGet (getP p i) (n - 1)).hist ++ (epGet (getP p i) n).hist).foldl addNew []
  let e := epGet (getP p i) n
  hs.foldl (fun p h =>
    agentWrite p (some i) (histAddr p n h) (histBytes (if e.keptSlots.contains h then e.keptHist else p.hist) h)) p

def words (t : Sparse Nat) (n : Nat) : List Byte := (List.range n).flatMap (fun k => toLE 4 (spGetD t k 0))

def vengEntry (p : Plane) (i v : Nat) (e : EpRec) : List Byte :=
  if partOf p v = some i then
    words (spGetD e.snapV v []) 15 ++ toLE 1 (getV p v).host ++ toLE 1 (if isHosted p v then 3 else 2) ++ zeros 2
  else zeros 64

def regionEntry (p : Plane) (i r : Nat) (e : EpRec) : List Byte :=
  if (partRegions p i).contains r then
    let t := spGetD e.snapR r []
    words t 12 ++ toLE 1 (spGetD t 12 255) ++ toLE 1 (unsigned 8 (((spGetD t 13 0 : Nat) : Int) - 128)) ++ zeros 14
  else zeros 64

/-- (log 97: DESIGN CHOICE, unsafe) -/
def stallImage (p : Plane) (i n : Nat) (e : EpRec) : List Byte :=
  toLE 8 n ++ toLE 8 (e.relRoc - (getP p i).imageRoc) ++ toLE 1 i ++ toLE 1 1 ++ zeros 46
    ++ (List.range 64).flatMap (fun v => vengEntry p i v e)
    ++ (List.range 8).flatMap (fun r => regionEntry p i r e)
    ++ words e.snapP 7 ++ toLE 4 (p.pins.refRoc - e.relRoc) ++ zeros 32

/-- Counters less what the image took; what came later stays for the next image. -/
def lessBy (t s : Sparse Nat) : Sparse Nat := s.foldl (fun t k => spSet 0 t k.1 (spGetD t k.1 0 - k.2)) t

/-- (log 96: DESIGN CHOICE, unsafe) -/
def writeStalls (i n : Nat) (p : Plane) : Plane :=
  let e := epGet (getP p i) n
  let p := agentWrite p (some i) ((msAddr p i n + 0x600000) % 2 ^ 52) (stallImage p i n e)
  let p := e.snapV.foldl (fun p v => modV p v.1 (fun x => { x with stalls := lessBy x.stalls v.2 })) p
  let p := e.snapR.foldl (fun p r => modRg p r.1 (fun x => { x with
    stalls := lessBy x.stalls (r.2.filter (fun k => decide (k.1 < 12))) })) p
  let p := { p with stalls := lessBy p.stalls e.snapP }
  modP p i (fun x => { x with imageRoc := e.relRoc })

/-- Step 4: a fence on every memory port in service. -/
def msFences (i n : Nat) (p : Plane) : Plane :=
  let ports := upTo 64 (fun k => !(getRg p (k / 8)).quarantined)
  modEp (ports.foldl (fun p k => pushReq p k .fence 0 0 (.milestone i n) (some i)) p) i n
    (fun e => { e with phase := .fencing })

/-! ## The record (R239 to R242) -/

def insertBy {α : Type} (key : α → Nat) (x : α) : List α → List α
  | [] => [x]
  | y :: t => if key x < key y then x :: y :: t else y :: insertBy key x t

/-- Ascending by key, equal keys in order of entry. -/
def sortBy {α : Type} (key : α → Nat) (l : List α) : List α := l.foldl (fun a x => insertBy key x a) []

def listMax : Nat := 65536

def gidOf (p : Plane) (id : Nat) : Nat := ((ctxAny p id).map ctxGid).getD 0

/-- This Plane's lists and status for the record of epoch `n`. -/
def formSummary (p : Plane) (i n : Nat) : Summary :=
  let e := epGet (getP p i) n
  let st := if e.miss.isEmpty && !e.missFull then e.status else e.status ||| 8
  let long := e.missFull || decide (listMax < e.updCtx.length) || decide (listMax < e.sealedCtx.length)
  { ranks := [(((getP p i).policy.sealSlot).map (selfRank p)).getD 0]
    status := if long then st ||| 16 else st
    counts := [e.flmmCnt, e.lateCnt, e.sidxCnt, e.fallbackCnt, e.retryCnt, e.detachCnt, e.mwbCnt].map
      (fun c => min c 0xFFFFFFFF)
    groups := sortBy Prod.fst ((slotsOf p i).map (fun g =>
      (gGgid (getSlot p g), gMepoch (getSlot p g), gNactive (getSlot p g))))
    upds := (sortBy Prod.fst (e.updCtx.map (fun u => (gidOf p u.1, u.2)))).take listMax
    sealedL := (sortBy Prod.fst (e.sealedCtx.map (fun id =>
      (gidOf p id, id, ((ctxAny p id).map ctxDigest).getD 0)))).take listMax
    colls := sortBy (fun c => c.1 * 2 ^ 16 + c.2.1) (e.colls.map (fun c => (c.ggid, c.cid, c.op, c.dout)))
    miss := sortBy id e.miss }

def sealedBytes (l : List (Nat × Nat × Nat)) : List Byte :=
  l.flatMap (fun s => toLE 16 (s.1 + s.2.1 * 2 ^ 32 + s.2.2 * 2 ^ 64))

def bodyBytes (s : Summary) : List Byte :=
  s.groups.flatMap (fun g => toLE 16 (g.1 + g.2.1 * 2 ^ 32 + g.2.2 * 2 ^ 80))
    ++ s.upds.flatMap (fun u => toLE 8 (u.1 + u.2 * 2 ^ 32))
    ++ sealedBytes s.sealedL
    ++ s.colls.flatMap (fun c => toLE 16 (c.2.1 + c.2.2.1 * 2 ^ 16 + c.1 * 2 ^ 24 + c.2.2.2 * 2 ^ 64))
    ++ s.miss.flatMap (toLE 4)

/-- MDIGEST (R241). -/
def mdigest (key : U64) (n : Nat) (body : List Byte) : Nat :=
  digestWords key 0 0 (n % 2 ^ 32 :: n / 2 ^ 32 % 2 ^ 16 :: words32 body)

def countsNat (l : List Nat) : Nat := (l.zipIdx).foldl (fun a c => a + c.1 % 2 ^ 32 * 2 ^ (384 + 32 * c.2)) 0

/-- The 256 B header (R239). The two narrow counts of a merged summary go on in the reserved bits beside them, which a
record leaves 0 (log 143: DESIGN CHOICE, unsafe). -/
def headerBytes (i n seq jrank fenced dig len : Nat) (s : Summary) : List Byte :=
  toLE 256 (1 + i * 2 ^ 8 + s.status.toNat * 2 ^ 16 + len * 2 ^ 32 + n % 2 ^ 48 * 2 ^ 64 + seq % 2 ^ 64 * 2 ^ 128
    + jrank * 2 ^ 192 + s.sealedL.length % 2 ^ 32 * 2 ^ 224 + s.upds.length % 2 ^ 32 * 2 ^ 256
    + s.colls.length % 2 ^ 32 * 2 ^ 288 + s.groups.length % 2 ^ 16 * 2 ^ 320 + s.miss.length % 2 ^ 32 * 2 ^ 336
    + s.groups.length / 2 ^ 16 % 2 ^ 16 * 2 ^ 368
    + countsNat s.counts + fenced * 2 ^ 640 + dig * 2 ^ 704)

def recordBytes (p : Plane) (i n seq : Nat) (s : Summary) : List Byte :=
  let body := bodyBytes s
  headerBytes i n seq (s.ranks.headD 0) (fencedMask p).toNat (mdigest (dkeyAt p i 0) n body) body.length s ++ body

/-! ## Summaries on the seal tree (R245) -/

/-- A record or merged summary, from its bytes. -/
def parseSummary (rank : Nat) (bs : List Byte) : Summary :=
  let h := leNat (bs.take 256)
  let b0 := bs.drop 256
  let ng := 16 * (bits h 335 320 + bits h 383 368 * 2 ^ 16)
  let nu := 8 * bits h 287 256
  let ns := 16 * bits h 255 224
  let nc := 16 * bits h 319 288
  let b1 := b0.drop ng
  let b2 := b1.drop nu
  let b3 := b2.drop ns
  let b4 := b3.drop nc
  let cut (k : Nat) (l : List Byte) : List Nat := (chunksOf k l.length l).map leNat
  { ranks := [rank]
    status := BitVec.ofNat 16 (bits h 31 16)
    counts := (List.range 7).map (fun k => bits h (415 + 32 * k) (384 + 32 * k))
    groups := (cut 16 (b0.take ng)).map (fun w => (bits w 23 0, bits w 79 32, bits w 92 80))
    upds := (cut 8 (b1.take nu)).map (fun w => (bits w 23 0, bits w 63 32))
    sealedL := (cut 16 (b2.take ns)).map (fun w => (bits w 23 0, bits w 55 32, bits w 127 64))
    colls := (cut 16 (b3.take nc)).map (fun w => (bits w 47 24, bits w 15 0, bits w 23 16, bits w 127 64))
    miss := (cut 4 (b4.take (4 * bits h 367 336))).map (fun w => bits w 23 0) }

def union {α : Type} [BEq α] (a b : List α) : List α := b.foldl (fun l x => if l.contains x then l else l ++ [x]) a

def mergeSummary (a b : Summary) : Summary :=
  { ranks := union a.ranks b.ranks
    status := a.status ||| b.status
    counts := (a.counts.zip b.counts).map (fun c => min (c.1 + c.2) 0xFFFFFFFF)
    groups := union a.groups b.groups
    upds := union a.upds b.upds
    sealedL := union a.sealedL b.sealedL
    colls := union a.colls b.colls
    miss := union a.miss b.miss }

/-- No key has two values. -/
def agree {α : Type} (key : α → Nat) (val : α → Nat) (l : List α) : Bool :=
  l.all (fun x => l.all (fun y => key x != key y || val x == val y))

/-- R243 on the merged summary of the top. -/
def verifies (floorHw : Bool) (s : Summary) : Bool :=
  s.status.toNat &&& 0x57 == 0 && !(floorHw && bit s.status.toNat 3)
    && agree Prod.fst Prod.snd s.upds
    && agree Prod.fst (fun g => g.2.1 * 2 ^ 13 + g.2.2) s.groups
    && agree (fun c => c.1 * 2 ^ 16 + c.2.1) (fun c => c.2.2.2)
        (s.colls.filter (fun c => decide (2 ≤ c.2.2.1) && decide (c.2.2.1 ≤ 7)))

/-- Pieces of one sender under a key, once its LAST and all before it are here; items of `sz` bytes. -/
def assembled (e : EpRec) (key sz : Nat) : Option (List Byte) :=
  let ps := e.pieces.filter (fun k => k.1 == key)
  let bs := ((ps.foldl (fun l k => insertPiece (k.2.1, k.2.2.2) l) []).map Prod.snd).flatten
  match ps.find? (fun k => k.2.2.1) with
  | some k => if k.2.1 * sz + k.2.2.2.length = bs.length then some bs else none
  | none => none

def replicaGroup (p : Plane) (i : Nat) : Option Nat :=
  (getP p i).policy.replicaSlot.filter (fun g => (getP p i).replay.isNone && gEn (getSlot p g)
    && isActiveRank p g (selfRank p g))

def pad8 (bs : List Byte) : List Byte := bs ++ zeros ((8 - bs.length % 8) % 8)

/-- A list of 8 B words to a member; an empty list goes as one packet with no items. -/
def sendList (i g n cid : Nat) (bs : List Byte) (p : Plane) (r : Nat) : Plane :=
  if bs = [] then sendPkt p i g none (wordPkt p i g r 6 n cid 0 0 true [])
  else sendWords p i g r 6 n cid 8 none (pad8 bs)

/-- Bytes of a summary on the tree: the layout of a record (R245). -/
def summaryBytes (p : Plane) (i n : Nat) (s : Summary) : List Byte := recordBytes p i n (epGet (getP p i) n).seq s

def putGot (p : Plane) (i n g r : Nat) (s : Summary) : Plane :=
  modEp p i n (fun e => { e with got := e.got.filter (fun k => k.1 != gotKey g r) ++ [(gotKey g r, s)] })

/-- To the aggregator of a group, through the loopback when it is this Plane. -/
def toAggregator (i n g : Nat) (s : Summary) (p : Plane) : Plane :=
  match aggregator p g with
  | none => p
  | some a =>
    if a = selfRank p g then putGot p i n g a s
    else sendList i g n 0xFFFF (summaryBytes p i n s) p a

/-! ## Replica exchange (R244) -/

def listOfBytes (bs : List Byte) : List (Nat × Nat) :=
  ((chunksOf 16 bs.length bs).map leNat).map (fun w => (bits w 23 0, bits w 127 64))

/-- Every member's sealed list as (rank, list), once all are here. -/
def replicaLists (p : Plane) (i n g : Nat) (own : Summary) : Option (List (Nat × List (Nat × Nat))) :=
  (others p g).foldr (fun r l =>
    match assembled (epGet (getP p i) n) (pieceKey 0xFFFD g r) 8, l with
    | some b, some t => some ((r, listOfBytes b) :: t)
    | _, _ => none) (some [(selfRank p g, own.sealedL.map (fun s => (s.1, s.2.2)))])

def digestIn (l : List (Nat × Nat)) (gid : Nat) : Option Nat := (l.find? (fun x => x.1 == gid)).map Prod.snd

/-- GLOBAL_IDs that are missing somewhere or differ. -/
def mismatches (ls : List (Nat × List (Nat × Nat))) : List Nat :=
  let gids := (ls.flatMap (fun l => l.2.map Prod.fst)).foldl addNew []
  gids.filter (fun gid => ls.any (fun a => digestIn a.2 gid == none
    || ls.any (fun b => digestIn a.2 gid != digestIn b.2 gid)))

/-- One record per member of each mismatch: its rank and DIGEST, 0 where it lists none. -/
def replicaRecords (i n g : Nat) (ls : List (Nat × List (Nat × Nat))) (p : Plane) (gid : Nat) : Plane :=
  ls.foldl (fun p l => raise p .replicaMismatch srcCore (some i)
    (dColl n 0xFFFD (gGgid (getSlot p g)) l.1 0 gid ((digestIn l.2 gid).getD 0) ++ gImage p g) []) (ledgerAdd p 1463 1)

/-- STATUS in the record and in the summary. -/
def setStatus (i n b : Nat) (p : Plane) : Plane :=
  let p := modEp p i n (fun e => { e with
    status := e.status ||| BitVec.ofNat 16 b
    own := e.own.map (fun s => { s with status := s.status ||| BitVec.ofNat 16 b }) })
  let st := (((epGet (getP p i) n).own.map Summary.status).getD 0).toNat
  agentWrite p (some i) ((msAddr p i n + 2) % 2 ^ 52) (toLE 2 st)

/-- (log 90: DESIGN CHOICE, unsafe) -/
def replicaStep (i n : Nat) (p : Plane) : Plane :=
  let e := epGet (getP p i) n
  match e.own, replicaGroup p i with
  | some own, some g =>
    match replicaLists p i n g own with
    | none => p
    | some ls =>
      let bad := mismatches ls
      let p := bad.foldl (replicaRecords i n g ls) p
      let p := if bad.isEmpty then p else setStatus i n 0x40 p
      modEp p i n (fun e => { e with replicaDone := true })
  | _, _ => modEp p i n (fun e => { e with replicaDone := true })

/-! ## The summary goes out (R243, R245) -/

/-- The verdict of the Plane that decides; a FAILED one brings the union of the floor-miss lists, unless a list has
overflowed (R227). -/
def decideSeal (i n : Nat) (s : Summary) (p : Plane) : Plane :=
  let ok := verifies (dutyHw p i 0) s
  modEp p i n (fun e => { e with
    verdict := some ok
    verdictMiss := if ok || bit s.status.toNat 4 then [] else s.miss })

def sendSummary (i n : Nat) (p : Plane) : Plane :=
  match (epGet (getP p i) n).own with
  | none => p
  | some own =>
    let p := modEp p i n (fun e => { e with summarySent := true })
    let p := match sealChain p i with
      | [] => decideSeal i n own p
      | g :: _ => toAggregator i n g own p
    finishWaits p (.summary i n) (okResp [n])

/-- The seal of the formed epoch goes on as far as it can. -/
def sealNext (p : Plane) (i : Nat) : Plane :=
  let x := getP p i
  let n := x.committed + 1
  if (epGet x n).phase != .formed || (epGet x n).taken || x.rollback.isSome then p
  else
    let p := if (epGet x n).replicaDone then p else replicaStep i n p
    let e := epGet (getP p i) n
    if e.replicaDone && !e.summarySent && !e.hostHold && (dutyHw p i 3 || x.replay.isSome) then sendSummary i n p else p

/-! ## Formation (R238) -/

/-- Disputed records whose epoch this is: their MDIGEST and lists against the referee's (R289). -/
def disputes (n dig : Nat) (body : List Byte) (ds : List (List Byte)) : Nat :=
  (ds.zipIdx).foldl (fun m d =>
    let h := leNat (d.1.take 256)
    if bits h 111 64 = n ∧ (bits h 767 704 ≠ dig ∨ (d.1.drop 256).take (bits h 63 32) ≠ body) then m + 2 ^ d.2
    else m) 0

def noteReplay (i n dig : Nat) (body : List Byte) (p : Plane) : Plane :=
  modP p i (fun x => { x with replay := x.replay.map (fun r => { r with
    mask := if dutyHw p i 11 then r.mask ||| disputes n dig body r.disputed else r.mask
    mdigest := dig
    formed := n }) })

/-- Step 5: the record, the notification, the start of the seal. -/
def formRecord (i n : Nat) (p : Plane) : Plane :=
  let s := formSummary p i n
  let seq := (getP p i).msSeq + 1
  let bs := recordBytes p i n seq s
  let p := setPn (agentWrite p (some i) (msAddr p i n) bs) i 0
  let p := modP p i (fun x => { x with msSeq := seq })
  let p := modEp p i n (fun e => { e with
    phase := .formed
    seq := seq
    own := some s
    hostHold := bit s.status.toNat 5 })
  let p := noteReplay i n (bits (leNat (bs.take 256)) 767 704) (bs.drop 256) p
  let p := match replicaGroup p i with
    | some g => (others p g).foldl (sendList i g n 0xFFFD (sealedBytes s.sealedL)) p
    | none => p
  sealNext p i

def fencesOut (p : Plane) (i n : Nat) : Bool :=
  p.memp.any (fun m => (m.2.reqs ++ m.2.waiting).any (fun r => r.owner == .milestone i n))

/-- A record that a count of the epoch waits for is not yet in NVM (R326; log 149: DEDUCED, unsafe). -/
def countsOut (p : Plane) (i n : Nat) : Bool :=
  let of (a : Ack) : Bool := match a with
    | .count j k _ => j == i && k == n
    | _ => false
  p.bb.queue.any (fun r => r.2.any of) || p.bb.coal.any (fun c => c.acks.any of) || p.bb.lostAcks.any of

/-- Steps 1 to 5, as far as they go now. -/
def milestoneForm (i : Nat) (p : Plane) : Plane :=
  let x := getP p i
  let n := x.committed + 1
  if x.rollback.isSome || x.halted.isSome || !noneStopped p i then p
  else
    match (epGet x n).phase with
    | .released =>
      let p := exchStep i n (exchStep i n (exchStep i n (msFree i n p)))
      if (slotsOf p i).all (exchDone p i n) then
        msFences i n (writeStalls i n (writeHist i n (rotateAll i n p)))
      else p
    | .fencing => if fencesOut p i n || countsOut p i n then p else formRecord i n p
    | _ => p

/-! ## Merging (R245) -/

/-- The summary of a member that this aggregator holds. -/
def heldSummary (e : EpRec) (g r : Nat) : Option Summary :=
  match e.got.find? (fun k => k.1 == gotKey g r) with
  | some s => some s.2
  | none => (assembled e (pieceKey 0xFFFF g r) 8).map (parseSummary r)

def allSummaries (p : Plane) (e : EpRec) (g : Nat) : Option (List Summary) :=
  (activeRanks p g).foldr (fun r l =>
    match heldSummary e g r, l with
    | some s, some t => some (s :: t)
    | _, _ => none) (some [])

/-- One group: merge, then send on; the top decides. `up` is the group above. -/
def mergeGroup (i n : Nat) (p : Plane) (g : Nat) (up : Option Nat) : Plane :=
  let e := epGet (getP p i) n
  if !isAggregator p g || e.merged.contains g then p
  else
    match allSummaries p e g with
    | none => p
    | some [] => p
    | some (s :: t) =>
      let m := t.foldl mergeSummary s
      let p := modEp p i n (fun e => { e with
        merged := e.merged ++ [g]
        got := union e.got ((activeRanks p g).filterMap (fun r => (heldSummary e g r).map (fun s => (gotKey g r, s)))) })
      match up with
      | some h => toAggregator i n h m p
      | none => decideSeal i n m p

def mergeChain (i n : Nat) : List Nat → Plane → Plane
  | [], p => p
  | g :: t, p => mergeChain i n t (mergeGroup i n p g t.head?)

def summaryMerge (i : Nat) (p : Plane) : Plane :=
  let x := getP p i
  let n := x.committed + 1
  if x.rollback.isSome || !dutyHw p i 3 || (epGet x n).verdict.isSome then p
  else mergeChain i n (sealChain p i) p

/-! ## Commit (R248) -/

/-- Held buffers go to memory; each request is acknowledged before the commit goes on (R250). -/
def writeHeld (i n : Nat) (p : Plane) (h : HeldBuf) : Plane :=
  let p := (reqList h.addr h.bytes.length).foldl (fun p r =>
    if inWindow p i r.1 r.2 then
      agentReq (memStore p r.1 ((h.bytes.drop (r.1 - h.addr)).take r.2)) .write r.1 r.2 (.milestone i n) (some i)
    else raise p .memError srcCore (some i) (dExec 0 0 0 0 0 0 (r.1 % 2 ^ 52)) []) p
  hqPush p (getP p i).policy.holdHq h.handle

def flipVer (c : Cx) : Cx := setFld c 19 19 (if ctxVer c then 0 else 1)

/-- What the commit of `n` advances in a context: VER, T, SR_STEP. -/
def commitCtx (hold : Bool) (e : EpRec) (id : Nat) (c : Cx) : Cx :=
  if ctxIsUpd c then
    if updRan c && decide (updRanTag c = e.n) then setFld c 479 448 (updT c + 1) else c
  else
    let c := if !hold && e.sealedCtx.contains id then flipVer c else c
    if ctxSrAdv c && e.wrote.contains id then setFld c 219 192 (ctxSrStep c + 1) else c

def commitCtxs (i n : Nat) (p : Plane) : Plane :=
  let e := epGet (getP p i) n
  let hold := (getP p i).policy.hold
  let q := (partCtxs p i).foldl (fun q id =>
    match ctxAny p id with
    | none => q
    | some c =>
      let d := commitCtx hold e id c
      if d = c then q else ctxPutAny q id d) p
  modP q i (fun x => { x with snaps := x.snaps.map (fun s =>
    if s.epoch = n then { s with ctxs := s.ctxs.map (fun c => (c.1, commitCtx hold e c.1 c.2)) } else s) })

/-- Step 5: what no restart needs any more. -/
def forget (i n : Nat) (p : Plane) : Plane :=
  let p := (partVengs p i).foldl (fun p v => modV p v (fun x => { x with
    tasks := x.tasks.map (fun t => (t.1, { t.2 with checks := t.2.checks.filter (fun c => decide (n ≤ c.epoch)) })) })) p
  let p := (partVengs p i).foldl (fun p e => modPhys p e (fun x => { x with ueBanks := [] })) p
  modP p i (fun x => { x with
    committed := n
    rollbacks := 0
    journal := x.journal.filter (fun j => decide (n < j.epoch))
    starts := x.starts.filter (fun s => decide (n < s.epoch))
    snaps := (x.snaps.filter (fun s => decide (n ≤ s.epoch))).map (fun s =>
      if s.epoch = n then { s with preRound := x.preRound } else s)
    epochs := x.epochs.filter (fun e => decide (n ≤ e.n)) })

/-- Packets and runs of a committed epoch that are still held (R229 check 5). -/
def dropStale (i n : Nat) (p : Plane) : Plane :=
  let runs := p.heldRuns.filter (fun r => r.part == i && decide (r.epoch ≤ n))
  let pkts := p.heldPkts.filter (fun k => gPart (getSlot p k.gslot) == i && decide (k.pkt.epoch.toNat ≤ n))
  let p := { p with
    heldRuns := p.heldRuns.filter (fun r => !runs.contains r)
    heldPkts := p.heldPkts.filter (fun k => !pkts.contains k) }
  let l := (runs.filterMap HeldRun.ack ++ pkts.map (fun k => (k.gslot, k.pkt)))
  ackGone i l (l.foldl (fun p k => addStale p k.1) p)

/-- Slots of a replay are FREE when its referee mode ends (R290). -/
def freeTasks (i : Nat) (p : Plane) : Plane :=
  let p := (partVengs p i).foldl (fun p v => modV p v (fun x => { x with tasks := [] })) p
  { p with flights := p.flights.filter (fun f => f.part != i) }

/-- The end of referee mode: policy as before, every slot FREE, the response (R289, R290). -/
def endReplay (i status : Nat) (p : Plane) : Plane :=
  match (getP p i).replay with
  | none => p
  | some r =>
    let p := freeTasks i p
    let p := modP p i (fun x => { x with
      replay := none
      policy := r.policy
      halted := none
      rollbacks := 0
      journal := []
      starts := []
      lastClosed := x.committed
      epochs := x.epochs.filter (fun e => decide (e.n ≤ x.committed)) })
    finishWaits p (.replay i) ⟨status, [r.formed, r.mask, r.mdigest]⟩

/-- Steps 2 to 6. -/
def commitRest (i n : Nat) (p : Plane) : Plane :=
  let p := membershipPoint (commitCtxs i n p) i true n
  let p := preRoundExpire p i n
  let p := writeOutcome i 1 (dropStale i n (forget i n p)) n
  let p := finishWaits p (.committed i n) (okResp [n])
  match (getP p i).replay with
  | some r => if r.last ≤ n then endReplay i 0 p else p
  | none => p

/-- The commit goes on once every held write is acknowledged. -/
def commitNext (p : Plane) (i : Nat) : Plane :=
  let x := getP p i
  let n := x.committed + 1
  if (epGet x n).taken && x.rollback.isNone && !fencesOut p i n then commitRest i n p else p

/-- VERIFIED. -/
def takeCommit (i n : Nat) (p : Plane) : Plane :=
  let e := epGet (getP p i) n
  let p := if (getP p i).policy.hold then e.held.foldl (writeHeld i n) p else p
  let p := modEp p i n (fun e => { e with
    taken := true
    held := [] })
  commitNext p i

/-! ## The verdict (R245, R252) -/

/-- Each aggregator sends the verdict to the members of its own group. -/
def sendDown (i n : Nat) (ok : Bool) (p : Plane) : Plane :=
  if (epGet (getP p i) n).downSent then p
  else
    let p := ((sealChain p i).filter (isAggregator p)).foldl (verdictDown i n (if ok then 1 else 2)
      ((epGet (getP p i) n).verdictMiss.take 1025)) p
    modEp p i n (fun e => { e with downSent := true })

/-- This Plane holds the verdict of its uncommitted epoch and carries it out. -/
def sealVerdict (i : Nat) (ok : Bool) (p : Plane) : Plane :=
  let x := getP p i
  let n := x.committed + 1
  let e := epGet x n
  if e.verdict != some ok || e.taken || x.rollback.isSome then p
  else
    let p := sendDown i n ok p
    if ok then (if e.phase == .formed then takeCommit i n p else p) else rollbackNow p i 0 true

/-! ## Stalls and the restart barrier (R246, R250, R254) -/

def missingRanks (p : Plane) (i n : Nat) : List Nat :=
  (sealChain p i).flatMap (fun g => if isAggregator p g then
    (activeRanks p g).filter (fun r => (heldSummary (epGet (getP p i) n) g r).isNone) else [])

/-- Two ranks of 4 B; a rank list holds no more (R332). -/
def rankList (l : List Nat) : Nat := l.headD 0xFFFFFFFF + (l.drop 1).headD 0xFFFFFFFF * 2 ^ 32

def sealStall (i : Nat) (p : Plane) : Plane :=
  let x := getP p i
  let n := x.committed + 1
  let e := epGet x n
  if e.phase != .formed || e.verdict.isSome || e.stallRec || x.rollback.isSome || !dutyHw p i 3 then p
  else
    let p := modEp p i n (fun e => { e with stallRec := true })
    let ggid := ((x.policy.sealSlot).map (fun g => gGgid (getSlot p g))).getD 0
    raise p .sealStall srcCore (some i) (dColl n 0xFFFF ggid 0 0 0 (rankList (missingRanks p i n))
      ++ ((x.policy.sealSlot).map (gImage p)).getD []) [.pn i 5]

/-- A peer's RESTART_READY; it counts while this member rolls back. -/
def restartReady (g r : Nat) (p : Plane) : Plane :=
  let i := gPart (getSlot p g)
  match (getP p i).rollback with
  | none => p
  | some rb =>
    let p := modP p i (fun x => { x with rollback := some { rb with got := union rb.got [(g, r)] } })
    rollbackProgress p i

/-- The barrier has waited 2^24 counts. -/
def restartStall (i : Nat) (p : Plane) : Plane :=
  match (getP p i).rollback with
  | none => p
  | some rb =>
    if !rb.restored || rb.stallRec then p
    else
      let late := (readyPeers p i).filter (fun k => !rb.got.contains k)
      let p := modP p i (fun x => { x with rollback := some { rb with stallRec := true } })
      raise p .restartStall srcCore (some i) (dColl rb.first 0xFFFC ((late.head?.map (fun k => gGgid (getSlot p k.1))).getD 0)
        0 0 0 (rankList (late.map Prod.snd)) ++ (late.head?.map (fun k => gImage p k.1)).getD []) [.pn i 5]

end Sys2Proof.Machine
end

