-- ==== Sys2Proof/Machine/Landing.lean ====
section
/-! DEFINITION. What arrives on the collective ports: the landing checks (R229), where each packet type lands
(R221, R226, R245), ACKs (R230), and what a failed check does (R232). -/

namespace Sys2Proof.Machine

/-! ## Check failures (R232) -/

inductive BadLand where
  | page (ctx : Nat)
  | parse
  | digest
deriving DecidableEq, Repr

/-- The record names SRC_RANK, GGID, CID and OFFSET in each case; GGID stands in the descriptor that follows (R214,
R232). -/
def checkRecord (i g : Nat) (k : Packet) (b : BadLand) (acks : List Ack) (p : Plane) : Plane :=
  let digest : Plane :=
    raise (ledgerAdd p 1461 1) .digestFail srcHub (some i)
      (dColl k.epoch.toNat k.cid.toNat k.ggid.toNat k.srcRank.toNat k.offset.toNat k.globalId.toNat 0 ++ gImage p g) acks
  match b with
  | .page id =>
    raiseLvl p .ctxPageBad 3 srcHub (some i)
      (dInstr 0 0 0 0 (toLE 4 id ++ toLE 4 k.srcRank.toNat ++ toLE 2 k.cid.toNat ++ toLE 8 k.offset.toNat ++ gImage p g)) acks
  | .parse =>
    if k.ptype.toNat < 2 then
      raiseLvl p .xafFormat 3 srcHub (some i)
        (dExec 0 0 k.globalId.toNat k.offset.toNat k.f.toInt k.srcRank.toNat 0 ++ toLE 2 k.cid.toNat ++ gImage p g) acks
    else digest
  | .digest => digest

/-- A host-assisted failure after formation sets HOST_HOLD in the Milestone that has formed. -/
def holdFormed (p : Plane) (i n : Nat) : Plane :=
  if dutyHw p i 2 || (epGet (getP p i) n).phase != .formed then p
  else modEp (setStatus i n 0x20 p) i n (fun e => { e with hostHold := true })

def checkFail (i g : Nat) (k : Packet) (b : BadLand) (p : Plane) : Plane :=
  let p := addPeerBad (addBad p g) g k.srcRank.toNat
  let p := checkRecord i g k b (checkAcks p i) p
  let p := holdFormed (checkStatus p i k.epoch.toNat 0) i k.epoch.toNat
  let p := sendAck p i g k 2
  if dutyHw p i 2 then rollbackNow p i 2 false else p

/-! ## Targets (check 6) -/

/-- The collective a packet belongs to, by its number, epoch and one of its groups. -/
def collFor (p : Plane) (i g : Nat) (k : Packet) (ops : List Nat) : Option Coll :=
  p.colls.find? (fun c => c.part == i && c.cid == k.cid.toNat && c.epoch == k.epoch.toNat && ops.contains c.op
    && (if usesList c.op then (levelsOf p c).contains g else c.gslot == g))

def inRange (c : Coll) (k : Packet) : Bool :=
  decide (c.offset ≤ k.offset.toNat) && decide (k.offset.toNat + k.count.toNat ≤ c.offset + c.count)

def opsOf (t : Nat) : List Nat :=
  match t with
  | 1 => [2]
  | 2 => [3, 4]
  | 3 => [5, 6]
  | 4 => [7]
  | 5 => [8]
  | 6 => [9, 10]
  | 9 => [12]
  | _ => []

inductive Target where
  | none
  | squares (s : Nat × Nat × Square)
  | coll (c : Coll)
  | pieces
  | verdict
  | ready
deriving DecidableEq, Repr

def squareFor (p : Plane) (i : Nat) (k : Packet) : Option (Nat × Nat × Square) :=
  (squaresOf p i k.epoch.toNat k.globalId.toNat).find? (fun s =>
    decide (s.2.2.offset < k.offset.toNat + k.count.toNat) && decide (k.offset.toNat < squareEnd s.2.2))

def targetOf (p : Plane) (i g : Nat) (k : Packet) : Target :=
  match k.ptype.toNat with
  | 0 => match squareFor p i k with
    | some s => .squares s
    | none => .none
  | 7 => .pieces
  | t =>
    if t = 6 ∧ 0xFFF0 ≤ k.cid.toNat then
      match k.cid.toNat with
      | 0xFFFF => .pieces
      | 0xFFFE => .verdict
      | 0xFFFD => .pieces
      | 0xFFFC => if ((getP p i).rollback.map Rollback.first) = some k.epoch.toNat then .ready else .none
      | _ => .none
    else
      match collFor p i g k (opsOf t) with
      | some c => if usesList c.op || inRange c k then .coll c else .none
      | none => .none

/-! ## Landing (checks 7 to 9, R105, R221) -/

/-- Bytes of an item of the types that have a fixed size. -/
def itemBytes (t : Nat) : Nat :=
  match t with
  | 3 => 16
  | 5 => 1
  | 6 => 8
  | _ => 4

def landed (i g : Nat) (k : Packet) (p : Plane) : Plane := sendAck p i g k 0

def landExact (i g : Nat) (k : Packet) (as : List Acc) (ev : List ArrayEvent) (p : Plane) : Plane :=
  let id := p.nextId
  landNew { p with nextId := id + 1 }
    ⟨id, i, k.epoch.toNat, k.globalId.toNat, k.offset.toNat, as, k.f.toInt,
      .packet g k.cid.toNat k.srcRank.toNat, some (g, k), 0, false, ev⟩

/-- Winner records and FP32 vectors: a contribution to this Plane's shard, or an owner's result. -/
def landItems (c : Coll) (k : Packet) (p : Plane) : Plane :=
  let sh := ownShard p c
  if !c.spread && decide (sh.1 ≤ k.offset.toNat) && decide (k.offset.toNat + k.count.toNat ≤ sh.1 + sh.2) then
    modColl p c.id (fun c => { c with
      got := c.got ++ [(gotKey c.gslot k.srcRank.toNat, k.offset.toNat, k.payload)] })
  else placeItems c k.offset.toNat k.payload p

/-- Digest of a packet of items without a context (R224). -/
def wordsOk (p : Plane) (i : Nat) (k : Packet) : Bool :=
  digestWords (dkeyAt p i 0) k.globalId.toNat 0 (words32 k.payload) == k.digest.toNat

def addPiece (i g : Nat) (k : Packet) (p : Plane) : Plane :=
  let key := pieceKey (if k.ptype.toNat = 7 then 0 else k.cid.toNat) g k.srcRank.toNat
  modEp p i k.epoch.toNat (fun e => { e with
    pieces := e.pieces ++ [(key, k.offset.toNat, k.last, k.payload)] })

/-- FAILED from below goes on upward; from above, or at the top, it is the verdict (R245). -/
def landVerdict (i g : Nat) (k : Packet) (p : Plane) : Plane :=
  let n := k.epoch.toNat
  let ok := leNat (k.payload.take 2) == 1
  let up := (sealChain p i).dropWhile (fun h => h != g)
  if !ok && isAggregator p g then
    let below := (sealChain p i).takeWhile (fun h => h != g)
    let top := up.all (isAggregator p)
    let p := failedUp i n (below.filter (isAggregator p)).reverse up p
    if top then
      modEp p i n (fun e => { e with
        verdict := some false
        downSent := true })
    else p
  else modEp p i n (fun e => { e with
    verdict := some ok
    verdictMiss := (listVals 6 (k.payload.drop 8)).map Int.toNat })

/-- The entries of an exact packet: malformed, of another FLO than its header's F (R53), or as sent. -/
inductive Exact where
  | malformed
  | floor
  | entries (as : List Acc)
deriving DecidableEq, Repr

def exactOf (k : Packet) : Exact :=
  match xaftParts k.count.toNat k.count.toNat k.payload with
  | none => .malformed
  | some gs => if floAgrees k.f.toInt gs then .entries (gs.flatMap XaftGroup.accs) else .floor

/-- A packet of totals whose FLO is not its header's: FLOOR_MISMATCH, nothing is written. -/
def totalFloor (i g : Nat) (c : Coll) (k : Packet) (p : Plane) : Plane :=
  sendAck (floorMismatch p i k.epoch.toNat c.veng c.slot srcHub k.globalId.toNat k.offset.toNat k.f.toInt k.srcRank.toNat)
    i g k 3

def landColl (i g : Nat) (c : Coll) (k : Packet) (p : Plane) : Plane :=
  let n := k.count.toNat
  match k.ptype.toNat with
  | 1 =>
    match exactOf k with
    | .malformed => checkFail i g k .parse p
    | .floor => totalFloor i g c k p
    | .entries as =>
      if digestAccs c.key c.gid k.offset.toNat as = k.digest.toNat then landed i g k (placeTile c k.offset.toNat as p)
      else checkFail i g k .digest p
  | 2 =>
    match fmtOf c with
    | none => checkFail i g k .parse p
    | some f =>
      if k.fmt.toNat ≠ fmtCode f ∨ k.payload.length ≠ lineRaw f n then checkFail i g k .parse p
      else if digestLine f c.key c.gid k.offset.toNat n k.payload = k.digest.toNat then
        landed i g k (placeLine c f (k.offset.toNat, n, k.payload) p)
      else checkFail i g k .digest p
  | t =>
    if k.payload.length ≠ itemBytes t * n then checkFail i g k .parse p
    else if t = 3 ∨ t = 4 then
      if itemDigest c k.offset.toNat k.payload = k.digest.toNat then landed i g k (landItems c k p)
      else checkFail i g k .digest p
    else if digestWords c.key0 k.globalId.toNat 0 (words32 k.payload) = k.digest.toNat then
      landed i g k (modColl p c.id (fun c => { c with
        got := c.got ++ [(gotKey g k.srcRank.toNat, k.offset.toNat, k.payload)] }))
    else checkFail i g k .digest p

/-- Entries that a contribution of another floor counts in each Square of its range (R53, R107). -/
def countOnly (i : Nat) (k : Packet) (p : Plane) : Plane :=
  let lo := k.offset.toNat
  let hi := lo + k.count.toNat
  ((squaresOf p i k.epoch.toNat k.globalId.toNat).filter (fun s =>
      decide (s.2.2.offset < hi) && decide (lo < squareEnd s.2.2) && s.2.2.st == .opened)).foldl (fun p s =>
    countSquare s.1 s.2.1 (min hi (squareEnd s.2.2) - max lo s.2.2.offset) 0 p) p

def landSquare (i g : Nat) (x : Nat × Nat × Square) (k : Packet) (ev : List ArrayEvent) (p : Plane) : Plane :=
  let s := x.2.2
  match exactOf k with
  | .malformed => checkFail i g k .parse p
  | .floor =>
    sendAck (countOnly i k (floorMismatch p i k.epoch.toNat x.1 s.owner srcHub s.gid k.offset.toNat k.f.toInt
      k.srcRank.toNat)) i g k 3
  | .entries as =>
    if digestAccs s.dkey k.globalId.toNat k.offset.toNat as = k.digest.toNat then landExact i g k as ev p
    else checkFail i g k .digest p

/-- The context that a landing names (R78). -/
def targetCtx (t : Target) : Option Nat :=
  match t with
  | .squares s => some s.2.2.ctx
  | .coll c => if usesCtx c.op then some c.ctx else none
  | _ => none

/-- The landing waits for a page-in. -/
def pagedOut (p : Plane) (t : Target) : Bool :=
  match targetCtx t with
  | some id => (ctxGet p id).isNone && !p.gaz.bad.contains id
  | none => false

def wantCtx (t : Target) (p : Plane) : Plane :=
  match targetCtx t with
  | some id => ctxWant p id
  | none => p

/-- Packets whose context must be there first; one whose page-in has failed fails check 7. -/
def withCtx (i g id : Nat) (k : Packet) (run : Plane → Plane) (p : Plane) : Plane :=
  if p.gaz.bad.contains id then
    checkFail i g k (.page id) { p with gaz := { p.gaz with bad := p.gaz.bad.filter (fun c => c != id) } }
  else if k.plen.toNat = k.payload.length then run p
  else checkFail i g k .parse p

/-- Packets of words for the epoch itself. -/
def landWords (i g sz : Nat) (k : Packet) (run : Plane → Plane) (p : Plane) : Plane :=
  if k.plen.toNat ≠ k.payload.length ∨ k.payload.length ≠ sz * k.count.toNat then checkFail i g k .parse p
  else if wordsOk p i k then landed i g k (run p)
  else checkFail i g k .digest p

/-- Checks 7 to 9 and the landing of a packet that has its target. -/
def landAt (i g : Nat) (t : Target) (k : Packet) (ev : List ArrayEvent) (p : Plane) : Plane :=
  match t with
  | .none => p
  | .squares s => withCtx i g s.2.2.ctx k (landSquare i g s k ev) p
  | .coll c =>
    if usesCtx c.op then withCtx i g c.ctx k (landColl i g c k) p
    else if k.plen.toNat = k.payload.length then landColl i g c k p
    else checkFail i g k .parse p
  | .pieces => landWords i g (if k.ptype.toNat = 7 then 4 else 8) k (addPiece i g k) p
  | .verdict => landWords i g 8 k (landVerdict i g k) p
  | .ready => landWords i g 8 k (restartReady g k.srcRank.toNat) p

/-! ## Checks 1 to 6 -/

def flitsOf (k : Packet) : Nat := 1 + (k.payload.length + 63) / 64

/-- Check 1 (R303). -/
def check1 (p : Plane) (port : Nat) (k : Packet) (rx : RxFault) : Bool :=
  !rx.err && !rx.cut && !rx.noCredit && decide (flitsOf k ≤ (getCP p port).rxCredits)
    && k.hcrc.toNat == hdrCrc k

/-- The receiving slot by GGID; check 3 wants the rank too. -/
def slotFor (p : Plane) (i : Nat) (k : Packet) : Option Nat :=
  (slotsOf p i).find? (fun g => gGgid (getSlot p g) == k.ggid.toNat)

def verOk (k : Packet) : Bool := k.ver.toNat == 1 && decide (k.ptype.toNat ≤ 9)

def isRootOf (p : Plane) (i g : Nat) (k : Packet) : Bool :=
  p.colls.any (fun c => c.part == i && c.gslot == g && c.op == 4 && c.cid == k.cid.toNat
    && c.epoch == k.epoch.toNat && c.root == k.srcRank.toNat)

def memberOk (p : Plane) (i g : Nat) (k : Packet) : Bool :=
  isActiveRank p g k.srcRank.toNat || isRootOf p i g k

/-- Checks 2 to 5; the answer names the first that fails. (log 92: DESIGN CHOICE, unsafe) -/
def earlyCheck (p : Plane) (i g : Nat) (k : Packet) : Option Nat :=
  if !verOk k then some 2
  else if k.dstRank.toNat ≠ selfRank p g then some 3
  else if !memberOk p i g k then some 4
  else if k.epoch.toNat ≤ (getP p i).committed then some 5
  else none

/-- Discarded whole: the counters of the check, and ACK DISCARDED to a packet that is no ACK. -/
def discardPkt (i g n : Nat) (k : Packet) (p : Plane) : Plane :=
  let p := if n = 5 then addStale p g else addNonmem p g
  let p := if n = 4 then addDisc p g k.srcRank.toNat else p
  if k.ptype.toNat = 8 then p else sendAck p i g k 1

/-- The hub holds the packet whole (R108). -/
def holdPkt (g : Nat) (k : Packet) (ev : List ArrayEvent) (p : Plane) : Plane :=
  let p := { p with
    heldPkts := p.heldPkts ++ [⟨p.nextId, g, k, ev, false⟩]
    nextId := p.nextId + 1 }
  if k.ptype.toNat = 0 then stallP p 4 1 else p

/-- A packet of an epoch that is being discarded: the first that the rollback discards or a later one. One from a peer
whose RESTART_READY has come belongs to the new attempt (R254). -/
def ofDiscarded (p : Plane) (i g : Nat) (k : Packet) : Bool :=
  match (getP p i).rollback with
  | none => false
  | some rb => decide (rb.first ≤ k.epoch.toNat) && k.cid != 0xFFFC && !rb.got.contains (g, k.srcRank.toNat)

/-- The packet's epoch has not begun, its target is not there, or its context pages in (check 6, R78). -/
def mustWait (p : Plane) (i : Nat) (k : Packet) (t : Target) : Bool :=
  decide (running p i < k.epoch.toNat) || t == .none || pagedOut p t

/-- Check 6, then the rest. -/
def landOrHold (i g : Nat) (k : Packet) (ev : List ArrayEvent) (p : Plane) : Plane :=
  if ofDiscarded p i g k then discardPkt i g 5 k p
  else
    let t := targetOf p i g k
    if mustWait p i k t then holdPkt g k ev (wantCtx t p) else landAt i g t k ev p

/-- A held packet whose target is here lands (R108). -/
def retryPkt (p : Plane) (id : Nat) : Plane :=
  match p.heldPkts.find? (fun k => k.id == id) with
  | none => p
  | some h =>
    let i := gPart (getSlot p h.gslot)
    let t := targetOf p i h.gslot h.pkt
    if mustWait p i h.pkt t then wantCtx t p
    else landAt i h.gslot t h.pkt h.ev { p with heldPkts := p.heldPkts.filter (fun k => k.id != id) }

def retryPkts (p : Plane) : Plane := (p.heldPkts.map HeldPkt.id).foldl retryPkt p

/-- Flits of packets that the hub no longer holds return as credit (R303). -/
def stillHeld (p : Plane) (k : Packet) : Bool :=
  p.heldPkts.any (fun h => h.pkt == k)
    || p.heldRuns.any (fun r => match r.ack with
      | some a => a.2 == k
      | none => false)

/-- (log 94: DESIGN CHOICE, unsafe) -/
def returnCredit (p : Plane) (n : Nat) : Plane :=
  let c := getCP p n
  if c.rxHeld = [] then p
  else
    let l := c.rxHeld.filter (stillHeld p)
    setCP p n { c with
      rxHeld := l
      rxCredits := 512 - l.foldl (fun s k => s + flitsOf k) 0 }

def returnCredits (p : Plane) : Plane := (List.range 16).foldl returnCredit p

/-- After a landing: the flits stay counted while the hub holds the packet. -/
def keepFlits (port : Nat) (k : Packet) (p : Plane) : Plane :=
  if stillHeld p k then
    let c := getCP p port
    setCP p port { c with
      rxHeld := c.rxHeld ++ [k]
      rxCredits := c.rxCredits - flitsOf k }
  else p

/-- The port takes packets: its region is in service, its wrapper runs, the hub answers (R262, R263). -/
def portUp (p : Plane) (port : Nat) : Bool :=
  p.regs.state == .ready && !(getRg p (port / 2)).quarantined

def countRx (port : Nat) (k : Packet) (p : Plane) : Plane := stallP (stallR p (port / 2) 5 (flitsOf k)) 6 1

/-! ## A referee's packets come from its image (R266, R289) -/

def packetOf (h : Nat) (payload : List Byte) : Packet :=
  { hcrc := BitVec.ofNat 32 (bits h 511 480)
    digest := BitVec.ofNat 64 (bits h 351 288)
    cid := BitVec.ofNat 16 (bits h 287 272)
    omaxe := BitVec.ofNat 16 (bits h 271 256)
    plen := BitVec.ofNat 15 (bits h 255 241)
    count := BitVec.ofNat 17 (bits h 240 224)
    f := BitVec.ofNat 10 (bits h 213 204)
    dstRank := BitVec.ofNat 20 (bits h 203 184)
    srcRank := BitVec.ofNat 20 (bits h 183 164)
    offset := BitVec.ofNat 36 (bits h 163 128)
    globalId := BitVec.ofNat 24 (bits h 119 96)
    epoch := BitVec.ofNat 48 (bits h 95 48)
    ggid := BitVec.ofNat 24 (bits h 47 24)
    fmt := BitVec.ofNat 8 (bits h 23 16)
    outcome := BitVec.ofNat 3 (bits h 15 13)
    last := bit h 12
    ptype := BitVec.ofNat 4 (bits h 11 8)
    ver := BitVec.ofNat 8 (bits h 7 0)
    payload := payload }

/-- REPLAY_IMAGE or an abort ends the segment: rolled back without replay (R290). -/
def stopReplay (i status : Nat) (p : Plane) : Plane :=
  let p := if (getP p i).rollback.isNone then beginRollback p i 6 true else p
  let p := modP p i (fun x => { x with replay := x.replay.map (fun r => { r with stop := some status }) })
  rollbackProgress p i

/-- A packet whose GGID matches no slot of the partition, or that reaches a port of none: discarded at check 3, with
no slot to count in. -/
def discardStray (port i : Nat) (k : Packet) (p : Plane) : Plane :=
  if k.ptype.toNat = 8 then p else ackStray p i port k 1

/-- Checks 2 to 9 of a packet that has passed check 1. -/
def arrive (port i : Nat) (k : Packet) (ev : List ArrayEvent) (p : Plane) : Plane :=
  match slotFor p i k with
  | none => if (getP p i).replay.isSome then p else discardStray port i k p
  | some g =>
    let p := addRx p g k.srcRank.toNat
    match earlyCheck p i g k with
    | some c => discardPkt i g c k p
    | none => landOrHold i g k ev p

/-- The next packet of the image lands; an image that runs out or does not parse ends the replay. -/
def imagePacket (i : Nat) (r : Replay) (ev : List ArrayEvent) (p : Plane) : Plane :=
  let h := memNatAt p r.image 64
  let n := bits h 255 241
  let k := packetOf h (memAt p (r.image + 64) n)
  if k.hcrc.toNat ≠ hdrCrc k ∨ !verOk k ∨ k.ptype.toNat = 8 ∨ 16384 < n then stopReplay i 0x01B0 p
  else
    arrive 0 i k ev (modP p i (fun x => { x with
      replay := x.replay.map (fun r => { r with image := r.image + 64 + (n + 63) / 64 * 64 }) }))

/-! ## PACKET_LANDING and ACK_RECEIVE -/

/-- What the hub's own tables meet while a packet lands (R260). -/
def landErrs (own : Option Nat) (errs : List StoreErr) (p : Plane) : Plane × Bool :=
  match errs with
  | [] => (p, true)
  | .tableCE t n :: l => landErrs own l (tableErr own t n.toNat false p).1
  | .tableUE t n :: _ => tableErr own t n.toNat true p
  | _ :: l => landErrs own l p

def landPacket (port : Nat) (k : Packet) (rx : RxFault) (ev : List ArrayEvent) (errs : List StoreErr) (p : Plane) :
    Plane :=
  if !portUp p port then p
  else
    let own := partOfRegion p (port / 2)
    let p := countRx port k p
    if !check1 p port k rx then ledgerAdd p (1432 + port) 1
    else
      match own with
      | none => discardStray port 8 k p
      | some i =>
        let r := landErrs own errs p
        if !r.2 then r.1
        else
          match (getP p i).replay with
          | some x => imagePacket i x ev r.1
          | none => if k.ptype.toNat = 8 then r.1 else keepFlits port k (arrive port i k ev r.1)

def ackMatches (i g : Nat) (k : Packet) (s : Sent) : Bool :=
  s.part == i && s.gslot == g && s.epoch == k.epoch.toNat && s.cid == k.cid.toNat && s.offset == k.offset.toNat
    && s.count == k.count.toNat && s.rank == k.srcRank.toNat

/-- A COLL whose packet was not landed is failed (R194, R230). -/
def failColl (id : Nat) (p : Plane) : Plane :=
  match getColl p id with
  | some c => failFlight p c.flight []
  | none => p

def takeAck (i g : Nat) (k : Packet) (p : Plane) : Plane :=
  match p.sent.find? (ackMatches i g k) with
  | none => addNonmem p g
  | some s =>
    let p := { p with sent := p.sent.erase s }
    let p := match s.coll with
      | some id => if k.outcome.toNat = 0 then p else failColl id p
      | none => p
    (List.range 8).foldl (fun p i => rollbackProgress p i) p

def ackReceive (port : Nat) (k : Packet) (rx : RxFault) (p : Plane) : Plane :=
  if !portUp p port then p
  else
    let p := countRx port k p
    if !check1 p port k rx then ledgerAdd p (1432 + port) 1
    else
      match partOfRegion p (port / 2) with
      | none => p
      | some i =>
        if k.ptype.toNat ≠ 8 then p
        else
          match slotFor p i k with
          | none => p
          | some g =>
            let p := addRx p g k.srcRank.toNat
            match earlyCheck p i g k with
            | some _ => discardPkt i g 3 k p
            | none => takeAck i g k p

/-- A packet has had no ACK for 2^24 counts. -/
def collTimeout (sid : Nat) (p : Plane) : Plane :=
  match p.sent.find? (fun s => s.id == sid) with
  | none => p
  | some s =>
    match s.coll with
    | none => p
    | some id =>
      let gid := ((getColl p id).map Coll.gid).getD 0
      let p := failColl id p
      let p := { p with sent := p.sent.map (fun x => if x.id = sid then { x with coll := none } else x) }
      raise p .collTimeout srcHub (some s.part)
        (dColl s.epoch s.cid (gGgid (getSlot p s.gslot)) s.rank s.offset gid 0 ++ gImage p s.gslot) []

end Sys2Proof.Machine
end

