-- ==== Sys2Proof/Machine/Complete.lean ====
section
/-! DEFINITION. Completion of instructions in flight (R95, R106, R189, R194) and Plaza group spill and restore
(R97). -/

namespace Sys2Proof.Machine

/-! ## INSTRUCTION_COMPLETE -/

/-- Nothing that the instruction started is outstanding. A run that the hub holds is accepted (log 28: DEDUCED, unsafe). -/
def mayComplete (p : Plane) (f : Flight) : Bool :=
  reqsDone p f.id && !heldBack p f && (match f.finish with
    | .crossArrive _ => false
    | .sealArrive => sealReady p f.veng f.epoch f.id
    | .coll id => ((getColl p id).map (collReady p)).getD true
    | .ring => ringDone p f.id
    | _ => true)

/-- The effect that waited for the data. -/
def finishData (f : Flight) (ev : List ArrayEvent) (p : Plane) : Plane :=
  let e := envFlight p f ev
  match f.finish with
  | .load a n v b => finishLoad f.bad a n v b p
  | .xload false a bgrp m add => finishXload f.bad e f.id a bgrp m add p
  | .xload true a bgrp m add => finishXtload f.bad e f.id a bgrp m add p
  | .install row w a n v o => finishInstall f.bad row w a n v o p
  | .coll id => collFinish p id
  | .ringSeq pl => finishSeq f.veng pl f.failed p
  | _ => p

/-- Local contributions count toward TALLY (R106). -/
def finishTally (f : Flight) (p : Plane) : Plane :=
  match f.finish with
  | .tally l => l.foldl (fun p t => countSquare f.veng t.1 t.2.1 t.2.2 p) p
  | _ => p

/-- A failed transfer marks its tag; a task that HALT ended stops now (R194). -/
def leaveTag (f : Flight) (p : Plane) : Plane :=
  if !f.failed || (getT p f.veng f.slot).st == .free then p
  else
    let p := modT p f.veng f.slot (fun t => { t with
      failTags := t.failTags ||| BitVec.ofNat 16 (2 ^ f.tag.getD 0) })
    let t := getT p f.veng f.slot
    if t.st = .ending ∧ t.byHalt = true then failStop f.part f.veng p f.slot else p

/-- (log 8: DESIGN CHOICE, safe) -/
def instructionComplete (id : Nat) (ev : List ArrayEvent) (p : Plane) : Plane :=
  match p.flights.find? (fun f => f.id == id) with
  | none => p
  | some f =>
    if !mayComplete p f then p
    else if f.finish = .sealArrive then sealArriveDone f p
    else
      let p := finishData f ev p
      match p.flights.find? (fun f => f.id == id) with
      | none => p
      | some g => leaveTag g (finishTally g (dropFlight p id))

/-! ## Spill and restore (R97) -/

def groupCells (x : VEng) (g : Nat) : List Acc :=
  (List.range 3072).map (fun j => getAcc x (16 * g + j / 192) (j % 192))

/-- The epoch in the image is the one that opened the group (log 31: DESIGN CHOICE, unsafe). -/
def spillImage (x : VEng) (v g : Nat) : List Byte :=
  groupBytes x g ++ toLE 8 (getG x g).epoch ++ toLE 1 v ++ zeros 39
    ++ (groupCells x g).flatMap (fun a => xaf136Bytes a (getG x g).f)

def groupAddr (p : Plane) (v g : Nat) : Nat := spillAddr p v (73792 * g)

/-- An instruction in flight names the group. -/
def groupInUse (p : Plane) (v g : Nat) : Bool :=
  p.flights.any (fun f => f.veng == v && f.groups.any (fun k => k.1 == g))

/-- The host needs the Plaza space for its other virtual engine, or gives the engine up (R97, R115). (log 98: DESIGN CHOICE, safe) -/
def spillWanted (p : Plane) (v : Nat) : Bool :=
  (getV p v).moveTo.isSome || decide (1 < (hostedOn p (homePort p v)).length)

/-- The group is in the Plaza, and no instruction in flight names it. -/
def canSpill (p : Plane) (v g : Nat) : Bool :=
  (getG (getV p v) g).st != .free && !(getG (getV p v) g).spl && !groupInUse p v g

/-- Spill traffic takes the engine's home port (R297). -/
def spillWrite (p : Plane) (v a : Nat) (bs : List Byte) : Plane :=
  (reqList a bs.length).foldl (fun p r => pushReq p (homePort p v) .write r.1 r.2 (.spill v) (partOf p v)) (memStore p a bs)

/-- A spill write of the engine is out. -/
def spillOut (p : Plane) (v : Nat) : Bool :=
  p.memp.any (fun m => (m.2.reqs ++ m.2.waiting).any (fun r => r.owner == .spill v))

def spillGroup (v g : Nat) (p : Plane) : Plane :=
  let x := getV p v
  let d := getG x g
  if !canSpill p v g then p
  else
    let p := spillWrite p v (groupAddr p v g) (spillImage x v g)
    let p := modV p v (fun x => setG (clearGroup x g) g { d with spl := true })
    stallR p (homePort p v / 8) 8 577

/-- A spill reads the group under the Plaza's checks (R102). -/
def groupSpill (v g : Nat) (ev : List ArrayEvent) (p : Plane) : Plane :=
  match partOf p v with
  | some i =>
    let d := getG (getV p v) g
    if !(spillWanted p v && canSpill p v g) then p
    else
      checked (envTask p v d.owner i d.epoch ev) ⟨false, false⟩ (16 * g) 16 (groupBytes (getV p v)) (spillGroup v g) p
  | none => p

/-- The physical group is free for this virtual engine. -/
def groupFreeFor (p : Plane) (v g : Nat) : Bool :=
  (hostedOn p (homePort p v)).all (fun w =>
    w == v || (getG (getV p w) g).st == .free || (getG (getV p w) g).spl)

def cellsOf (g : Nat) (bs : List Byte) : List Cell :=
  ((chunksOf 24 3072 bs).zipIdx).map (fun e => ⟨16 * g + e.2 / 192, e.2 % 192, (xaf136Read e.1).1, 0, 0, 0⟩)

/-- The Square record that covers a group. -/
def coverOf (x : VEng) (g : Nat) : Option Nat :=
  (x.squares.find? (fun s => s.2.st != .released && decide (s.2.baseGrp ≤ g)
    && decide (g < s.2.baseGrp + (s.2.m + 15) / 16))).map Prod.fst

/-- The descriptor of group `g` that an image holds. -/
def imageGroup (x : VEng) (g : Nat) (bs : List Byte) : Group :=
  let w := leNat (bs.take 16)
  { st := match bits w 20 18, coverOf x g with
      | 1, _ => .opened
      | 2, some q => .square q
      | _, _ => .free
    owner := bits w 17 14
    spl := false
    f := signed 10 (bits w 31 22)
    gnan := bits w 95 64
    ginf := bits w 127 96
    epoch := leNat ((bs.drop 16).take 8)
    past := none }

/-- The group comes back, once the spill's writes have their answers. A read that fails is recorded, and the group
stays away (log 24: DESIGN CHOICE, unsafe). -/
def groupRestore (v g : Nat) (fails : Fails) (p : Plane) : Plane :=
  let x := getV p v
  let d := getG x g
  let bad := failedReqs fails (groupAddr p v g) 73792
  if d.spl = false ∨ x.moveTo.isSome ∨ !groupFreeFor p v g ∨ spillOut p v then p
  else if bad ≠ [] then
    bad.foldl (fun p r => memError (ledgerAdd p (1368 + homePort p v) 1) v 0 (partOf p v) r.1 0 (homePort p v))
      (countRetries (homePort p v) fails p)
  else
    let p := countRetries (homePort p v) fails p
    let bs := memAt p (groupAddr p v g) 73792
    let p := modV p v (fun x =>
      setG ((cellsOf g (bs.drop 64)).foldl (fun x c => setAcc x c.row c.col c.acc) x) g (imageGroup x g bs))
    stallR p (homePort p v / 8) 8 577

end Sys2Proof.Machine
end

