-- ==== Sys2Proof/Machine/Settle.lean ====
section
/-! DEFINITION. What follows of itself when an event has changed the Plane: held data lands, slots become FREE,
closes and moves begin and end, rollbacks, seals and commits go on, sessions end. -/

namespace Sys2Proof.Machine

def parts8 : List Nat := List.range 8

/-! ## Held writes (R250) -/

def retryHeldEp (i : Nat) (p : Plane) (n : Nat) : Plane :=
  ((epGet (getP p i) n).heldWait).foldl (fun p h =>
    if (getQ p (getP p i).policy.holdHq).items.isEmpty then p
    else
      let p := modEp p i n (fun e => { e with heldWait := e.heldWait.erase h })
      holdSpan i n h.1 p (h.2.1, h.2.2)) p

def retryHeldWrites (p : Plane) (i : Nat) : Plane :=
  (((getP p i).epochs.filter (fun e => !e.heldWait.isEmpty)).map EpRec.n).foldl (retryHeldEp i) p

/-! ## Slots (R163) -/

/-- A slot whose last instruction has retired is FREE. (log 57: DEDUCED, safe) -/
def freeSlot (v : Nat) (p : Plane) (s : Nat) : Plane :=
  let t := getT p v s
  if t.st ≠ .ending ∨ !slotIdle p v s then p
  else
    let w (l : Option WLoad) : Option WLoad := l.map (fun x => if x.slot = s then { x with slot := 16 } else x)
    let p := setT p v s { Task.init with checks := t.checks }
    let p := modV p v (fun x => { x with
      active := w x.active
      shadow := w x.shadow })
    let p := match partOf p v with
      | some i => setPn p i 2
      | none => p
    finishWaits p (.slotFree v s) (okResp [])

def freeSlots (p : Plane) (v : Nat) : Plane :=
  (((getV p v).tasks.filter (fun t => t.2.st == .ending)).map Prod.fst).foldl (freeSlot v) p

/-- Engines that have task tables. -/
def usedVengs (p : Plane) : List Nat := spKeys p.vengs

/-! ## The implicit close begins (R235) -/

def beginClose (p : Plane) (i : Nat) : Plane :=
  let x := getP p i
  if !x.defined || x.rollback.isSome || !allFree p i then p
  else
    let n := x.lastClosed + 1
    if (epGet x n).issued then
      modEp (modP p i (fun x => { x with lastClosed := n })) i n (fun e => { e with implicitClose := true })
    else p

/-! ## TASK_START (R163, R234, R253, R285) -/

/-- One bin of both images. -/
def histWord (p : Plane) (b : Nat × Nat) : Plane :=
  let a := p.regs.histBase.toNat + 4 * b.1
  memStore (memStore p a (toLE 4 b.2)) (a + 2 ^ 20) (toLE 4 b.2)

/-- Before the first instruction of epoch 1, every slot goes into both histogram images (R128). The slots are the
Plane's and the epochs a partition's: epoch 1 of any partition rewrites both images whole, and a rollback restores
slots that another partition shares. (log 107: DESIGN CHOICE, unsafe) -/
def firstHist (p : Plane) (i n : Nat) : Plane :=
  if n = 1 ∧ (epGet (getP p i) n).issued = false then
    p.hist.foldl histWord { p with mem := clearRange p.mem p.regs.histBase.toNat (2 ^ 21) }
  else p

def startVeng (w : List Nat) : Nat := bits (w.headD 0) 5 0

/-- The named slot, or with ANY the lowest that is FREE; an error status otherwise. -/
def startSlot (p : Plane) (w : List Nat) : Except Nat Nat :=
  let v := startVeng w
  let isFree (s : Nat) : Bool := (getT p v s).st == .free
  if bit (w.headD 0) 12 then
    match (upTo 16 isFree).head? with
    | some s => .ok s
    | none => .error 0x131
  else
    let s := bits (w.headD 0) 11 8
    if isFree s then .ok s else .error 0x130

/-- Why a TASK_START is refused; its slot otherwise. -/
def startCheck (w : List Nat) (i : Nat) (p : Plane) : Except Nat Nat :=
  let v := startVeng w
  if partOf p v ≠ some i then .error 0x4
  else
    match (getV p v).prog with
    | none => .error 0x122
    | some g => if g.ninsn ≤ bits (w.headD 0) 51 32 then .error 0x2 else startSlot p w

def startRegs (w : List Nat) : TaskRegs :=
  { pc := bits (w.headD 0) 51 32
    s := (List.range 6).foldl (fun t k => spSet 0#64 t (k + 1) (BitVec.ofNat 64 (w.getD (k + 1) 0))) []
    p := 0
    loops := []
    prio := bits (w.headD 0) 17 16 }

/-- Start the task in the running epoch; the partition keeps the start for replay (R253). -/
def startTask (w : List Nat) (session i : Nat) (p : Plane) : Plane × Resp :=
  match startCheck w i p with
  | .error st => (p, errResp st)
  | .ok s =>
    let v := startVeng w
    let n := running p i
    let p := firstHist p i n
    let p := modT p v s (fun t => ⟨.active, startRegs w, n, session, 0, false, false, t.checks⟩)
    (modP p i (fun x => { x with starts := x.starts ++ [⟨v, s, n, startRegs w, session, true⟩] }), okResp [s, epochNo n])

/-- A GATED or DRAINING engine that hosts a task latches an enable (R360). -/
def wakeFor (p : Plane) (v : Nat) : Plane :=
  let h := homePort p v
  if (getV p v).tasks.any (fun t => t.2.st == .active) && !isFenced p h then enable p h else p

/-! ## Moves (R115, R291) -/

/-- A virtual engine whose old host has finished goes to the new one, its groups through the spill area. (log 64: DESIGN CHOICE, safe) -/
def moveVeng (p : Plane) (v : Nat) : Plane :=
  match (getV p v).moveTo with
  | none => p
  | some h =>
    if p.flights.any (fun f => f.veng == v) || (getPhys p h).power != .active then enable p h
    else
      let p := (spKeys (getV p v).groups).foldl (fun p g => spillGroup v g p) p
      placeVeng p v h

/-- A fence or unfence whose moves are done. -/
def movesDone (p : Plane) (e : Nat) : Bool :=
  (List.range 64).all (fun v => !((getV p v).moveTo.isSome && ((getV p v).host == e || (getV p v).moveTo == some e)))

/-- The mask or the FENCE record of an engine is not yet in NVM (R326, R355). -/
def fenceOut (p : Plane) (e : Nat) : Bool :=
  p.nvm.writes.any (fun w => match w with
    | .cfg _ k true _ _ => k == e
    | _ => false)
    || p.bb.queue.any (fun r => r.1.code == Code.num .fence && (r.1.detail.getD 1 0).toNat == e)

/-- A rollback may still start the slot again. -/
def startsLeft (p : Plane) (v s : Nat) : Bool :=
  match partOf p v with
  | none => false
  | some i => (getP p i).rollback.isSome || (getP p i).starts.any (fun k => k.veng == v && k.slot == s && !k.done)

def endMoves (p : Plane) (m : Nat) : Plane :=
  match (getM p m).exec with
  | some x =>
    match x.waits with
    | .moves e v0 => if movesDone p e && !fenceOut p e then finish p m (okResp [v0]) else p
    | .engineActive w s i =>
      if (getPhys p (homePort p (startVeng w))).power = .active then
        let r := startTask w s i p
        finish r.1 m r.2
      else p
    | .slotFree v s =>
      if (getT p v s).st = .free ∧ startsLeft p v s = false then finish p m (okResp []) else p
    | _ => p
  | none => p

/-- No virtual engine keeps a fenced engine from its gate: it hosts none, or those of a partition without room (R261). -/
def moved (p : Plane) (e : Nat) : Bool :=
  movesDone p e && (hostedOn p e).all (fun v => ((partOf p v).bind (fun i => (getP p i).halted)) == some .down)

/-- Step 2 of R253 has drained the engine's partition. -/
def rolledBack (p : Plane) (e : Nat) : Bool :=
  match partOfRegion p (e / 8) with
  | some i => ((getP p i).rollback.map Rollback.restored).getD true
  | none => true

/-- A fenced engine that hosts nothing and is not scanned goes to GATED (R359, R362). -/
def drainFenced (p : Plane) (e : Nat) : Plane :=
  let x := getPhys p e
  if x.power = .active ∧ x.scanning = false ∧ isFenced p e = true ∧ moved p e = true ∧ rolledBack p e = true then
    setPhys p e { x with
      power := .draining
      latched := false }
  else p

/-- Firmware starts the next NVM write unless QUIESCE_N is low (R308). (log 115: DESIGN CHOICE, safe) -/
def startNvm (p : Plane) : Plane :=
  if p.pins.quiesceN && !p.nvm.writes.isEmpty && !p.nvm.started then { p with nvm := { p.nvm with started := true } }
  else p

/-! ## Contexts whose release waits for an epoch (R278) -/

def relStep (p : Plane) (i : Nat) : Plane :=
  let go := (getP p i).relLater.filter (fun id => (onLists p i id).isEmpty)
  if go.isEmpty then p
  else
    let p := go.foldl (fun p id => releaseCtx (snapCtx p i id none) id) p
    modP p i (fun x => { x with relLater := x.relLater.filter (fun id => !go.contains id) })

/-! ## Sessions that end (R278) -/

/-- TASK_STOP on one slot (R165). -/
def stopTask (p : Plane) (v s : Nat) : Plane :=
  modT p v s (fun t => if t.st = .active ∨ t.st = .stopped then { t with st := .ending } else t)

def tasksOf (p : Plane) (s : Nat) : List (Nat × Nat) :=
  p.vengs.flatMap (fun v => (v.2.tasks.filter (fun t => t.2.st != .free && t.2.session == s)).map (fun t => (v.1, t.1)))

def sessionTasks (p : Plane) (s : Nat) : Bool :=
  p.vengs.any (fun v => v.2.tasks.any (fun t => t.2.st != .free && t.2.session == s))

def ownedCtxs (p : Plane) (s : Nat) : List Nat :=
  p.gaz.defined.filter (fun id => ((ctxAny p id).map ctxOwner) == some s)

def dropCtx (i : Nat) (p : Plane) (id : Nat) : Plane :=
  if (onLists p i id).isEmpty then releaseCtx (snapCtx p i id none) id
  else modP p i (fun x => { x with relLater := addNew x.relLater id })

def sessionMbxs (p : Plane) (s : Nat) : List Nat :=
  (p.mbx.filter (fun m => m.2.isOpen && m.2.session == s)).map Prod.fst

/-- The rest of a session's end: requests that were waiting are answered as the response rings have room, the verbs that
are executing run to their end, then its tasks stop, and once their slots are FREE what it holds goes. -/
def endSession (p : Plane) (s : Nat) : Plane :=
  match spGet p.sessions s with
  | none => p
  | some x =>
    let ms := sessionMbxs p s
    let p := if x.closing then
        ms.foldl (fun p m => refuseAll p m ((getM p m).closeTail.getD (getM p m).reqHead) 0xA) p else p
    if !x.closing || ms.any (fun m => (getM p m).exec.isSome) then p
    else if sessionTasks p s then (tasksOf p s).foldl (fun p t => stopTask p t.1 t.2) p
    else
      let p := { p with
        vengs := p.vengs.map (fun v => (v.1, { v.2 with
          prog := match v.2.prog with
            | some g => if g.session = s then none else some g
            | none => none }))
        queues := p.queues.map (fun q => if q.2.en ∧ q.2.session = s then (q.1, { q.2 with en := false }) else q) }
      let p := (ownedCtxs p s).foldl (dropCtx x.part) p
      let p := (ms.filter (fun m => !mbxClosed (getM p m))).foldl freeMbx p
      if sessionMbxs p s = [] then { p with sessions := spDel p.sessions s } else p

/-! ## Replay segments (R289, R290) -/

/-- A stopping fault halts a replay; the end of its rollback answers it. -/
def replayStep (p : Plane) (i : Nat) : Plane :=
  match (getP p i).replay with
  | none => p
  | some r =>
    let p := if r.stop.isNone && !noneStopped p i then stopReplay i 0 p else p
    match (getP p i).replay with
    | none => p
    | some r =>
      match r.stop with
      | some st => if (getP p i).rollback.isNone then endReplay i st p else p
      | none => p

/-! ## Everything -/

/-- Parts of a partition that go on. -/
def settlePart (p : Plane) (i : Nat) : Plane :=
  let x := getP p i
  if !x.defined then p
  else
    let p := rollbackProgress (retryHeldWrites p i) i
    let p := if (getP p i).rollback.isNone && (getP p i).starts.any (fun s => !s.done) then replayStarts p i else p
    let p := commitNext (sealNext (beginClose p i) i) i
    relStep (replayStep p i) i

/-- In HALTED the mailboxes end what they have begun, and NVM takes the records (R263). -/
def settleHalted (p : Plane) : Plane :=
  let p := (usedVengs p).foldl freeSlots p
  (spKeys p.sessions).foldl endSession (startNvm ((spKeys p.mbx).foldl endMoves p))

def settleReady (p : Plane) : Plane :=
  let p := leaveStreams (retryPkts (retryRuns p))
  let p := collsProgress p
  let p := (usedVengs p).foldl freeSlots p
  let p := (usedVengs p).foldl moveVeng p
  let p := parts8.foldl settlePart p
  let p := (usedVengs p).foldl wakeFor p
  let p := (spKeys p.mbx).foldl endMoves p
  let p := (spKeys p.phys).foldl drainFenced p
  let p := (spKeys p.sessions).foldl endSession (startNvm p)
  returnCredits p

def settle1 (p : Plane) : Plane := if p.regs.state = .halted then settleHalted p else settleReady p

/-- Twice: what the first pass ends may let the second go on. (log 99: DESIGN CHOICE, safe) -/
def settle (p : Plane) : Plane := settle1 (settle1 p)

/-- An event's effect and what follows of it. -/
def onPlaneS (s : State) (f : Plane → Plane) : Host.Outcome State Fault Refusal := onPlane s (fun p => settle (f p))

end Sys2Proof.Machine
end

