-- ==== Sys2Proof/Machine/Verb.lean ====
section
/-! DEFINITION. Verbs: which row serves the next request of a mailbox, the checks that every verb passes
(R276, R280, R281, R296, R308), and the verbs' access to memory. -/

namespace Sys2Proof.Machine

/-! ## Status codes (R282) -/

def stBadVerb : Nat := 0x1
def stBadArg : Nat := 0x2
def stNoSession : Nat := 0x3
def stNotOwner : Nat := 0x4
def stNoPriv : Nat := 0x5
def stBusy : Nat := 0x6
def stNoTxn : Nat := 0x7
def stMemFault : Nat := 0x8
def stNotReady : Nat := 0x9
def stSessionClosed : Nat := 0xA
def stCtxInvalid : Nat := 0x100
def stCtxBusy : Nat := 0x101
def stCtxPinFull : Nat := 0x102
def stTxnLate : Nat := 0x110
def stTxnFull : Nat := 0x111
def stTxnLimit : Nat := 0x112
def stTxnStageFull : Nat := 0x113
def stImgInvalid : Nat := 0x120
def stBufCfgInvalid : Nat := 0x121
def stNoProgram : Nat := 0x122
def stSlotBusy : Nat := 0x130
def stNoSlot : Nat := 0x131
def stPeerInvalid : Nat := 0x140
def stEpochBusy : Nat := 0x150
def stEpochUnknown : Nat := 0x151
def stFenceLimit : Nat := 0x160
def stNotFenced : Nat := 0x161
def stScanRequired : Nat := 0x162
def stFactoryFenced : Nat := 0x163
def stTableInvalid : Nat := 0x170
def stPartBusy : Nat := 0x190
def stPartInvalid : Nat := 0x191
def stRecordRange : Nat := 0x1A0
def stReplayImage : Nat := 0x1B0

/-! ## Which row serves a request -/

/-- The codes of the verb table (R281). -/
def verbCodes : List Nat :=
  [0x01, 0x02, 0x03, 0x10, 0x11, 0x12, 0x13, 0x14, 0x15, 0x16, 0x20, 0x21, 0x22, 0x30, 0x31, 0x32, 0x33,
    0x40, 0x41, 0x42, 0x50, 0x51, 0x52, 0x53, 0x54]

/-- How a verb treats IN_TXN (R281). -/
inductive TxnUse where
  | no
  | cond
  | req
deriving DecidableEq, Repr

/-- One row: its code, the requests of that code that it serves, and the columns of R281. -/
structure VerbRow where
  code : Nat
  sel : Req → Bool
  priv : Bool
  txn : TxnUse

def anyReq (_ : Req) : Bool := true

/-- The mailbox, its request, its session and partition. -/
structure Call where
  m : Nat
  q : Req
  s : Nat
  i : Nat
  fails : Fails := []

/-- The next request of the mailbox, when this row serves it. -/
def rowReq (p : Plane) (m : Nat) (r : VerbRow) : Option Req :=
  match peekReq p m with
  | some q => if q.verb = r.code ∧ r.sel q = true then some q else none
  | none => none

/-- The session of a mailbox; one that has ended serves no more (R277). -/
def sessionOf (p : Plane) (m : Nat) : Option Session :=
  if (getM p m).isOpen then (spGet p.sessions (getM p m).session).filter (fun x => !x.closing) else none

def txnOf (p : Plane) (m h : Nat) : Option Txn := (spGet p.txns h).filter (fun t => t.mbx == m)

/-- Why a handle does not serve a mailbox: another partition's, another mailbox's, or none (R280, R282). -/
def handleError (p : Plane) (m h : Nat) : Option Nat :=
  match spGet p.txns h with
  | none => some stNoTxn
  | some t =>
    if (sessionOf p m).map Session.part != some t.part then some stNotOwner
    else if t.mbx != m then some stNoTxn
    else none

/-- What IN_TXN makes of a request. -/
def txnError (p : Plane) (m : Nat) (q : Req) (u : TxnUse) : Option Nat :=
  if q.inTxn then (if u = .no then some stBadArg else handleError p m q.txn)
  else if u = .req then some stNoTxn
  else none

/-- The status of a request that the common checks refuse. -/
def callError (p : Plane) (m : Nat) (q : Req) (r : VerbRow) : Option Nat :=
  match sessionOf p m with
  | none => if r.code = 0x01 then none else some stNoSession
  | some x =>
    if p.regs.state ≠ .ready ∧ r.code ≠ 0x01 ∧ r.code ≠ 0x02 ∧ r.code ≠ 0x50 then some stNotReady
    else if r.priv && !x.mgmt then some stNoPriv
    else txnError p m q r.txn

/-- Run one row on the next request of a mailbox; `fails` are the requests of its memory accesses that the
host answers with ERROR. -/
def runVerbMem (m : Nat) (r : VerbRow) (fails : Fails) (f : Call → Plane → Plane) (p : Plane) : Plane :=
  match rowReq p m r with
  | none => p
  | some q =>
    match callError p m q r with
    | some st => answer p m q (errResp st)
    | none =>
      f ⟨m, q, (getM p m).session, ((sessionOf p m).map Session.part).getD 0, fails⟩ (countRetries (agentPort p) fails p)

/-- A row whose verb has no memory access that can fail. (log 116: DESIGN CHOICE, unsafe) -/
def runVerb (m : Nat) (r : VerbRow) (f : Call → Plane → Plane) (p : Plane) : Plane := runVerbMem m r [] f p

/-! ## Answers -/

def Call.ok (c : Call) (v : List Nat) (p : Plane) : Plane := answer p c.m c.q (okResp v)
def Call.err (c : Call) (st : Nat) (p : Plane) : Plane := answer p c.m c.q (errResp st)
def Call.wait (c : Call) (w : Waits) (p : Plane) : Plane := holdReq p c.m c.q w

/-- An argument field: bits hi to lo of Wn. -/
def Call.arg (c : Call) (n hi lo : Nat) : Nat := bits (c.q.arg n) hi lo
def Call.flag (c : Call) (n b : Nat) : Bool := bit (c.q.arg n) b

def isMgmt (p : Plane) (s : Nat) : Bool := ((spGet p.sessions s).map Session.mgmt).getD false

/-! ## Memory of the verbs (R282) -/

/-- Every unit of a range lies in a window of the partition. -/
def memOk (p : Plane) (i a n : Nat) : Bool := (reqList a n).all (fun r => inWindow p i r.1 r.2)

/-- Every request of a range is in a window and has OK. -/
def Call.accessOk (c : Call) (p : Plane) (a n : Nat) : Bool := memOk p c.i a n && (failedReqs c.fails a n).isEmpty

/-- MEM_ERROR of one request of a verb (R300), and what its record acknowledges; its port and tag as log 19: DESIGN
CHOICE, unsafe. -/
def verbErrorAck (i : Nat) (acks : List Ack) (p : Plane) (r : Nat × Nat) : Plane :=
  let n := agentPort p
  let tag := (freeTag (getMP p n)).getD 0
  raise (ledgerAdd p (1368 + n) 1) .memError srcCore (some i)
    (dExec 0 0 0 0 0 0 (r.1 % 2 ^ 52 + tag * 2 ^ 52 + n * 2 ^ 58)) acks

def verbMemError (i : Nat) (p : Plane) (r : Nat × Nat) : Plane :=
  verbErrorAck i [] p r

/-- The records of failed requests; the last acknowledges. -/
def verbErrors (i : Nat) (acks : List Ack) : List (Nat × Nat) → Plane → Plane
  | [], p => p
  | [r], p => verbErrorAck i acks p r
  | r :: t, p => verbErrors i acks t (verbMemError i p r)

/-- MEM_FAULT after requests that failed: the response depends on their records, so it waits for the last (R326). -/
def Call.memFault (c : Call) (bad : List (Nat × Nat)) (p : Plane) : Plane :=
  match bad with
  | [] => c.err stMemFault p
  | _ => verbErrors c.i [.respond p.order (errResp stMemFault)] bad (c.wait (.nvm p.order) p)

/-- MEM_FAULT of a read: outside the windows nothing is asked of the host. -/
def Call.readFault (c : Call) (a n : Nat) (p : Plane) : Plane :=
  c.memFault (if memOk p c.i a n then failedReqs c.fails a n else []) p

/-- Bytes written, those of a failed request as the host leaves them (R194). -/
def storeFail (fails : Fails) (a : Nat) (bs : List Byte) (p : Plane) : Plane :=
  (failedReqs fails a bs.length).foldl (fun p r => freeBytes p r.1 r.2) (memStore p a bs)

/-- The verb writes its output: OK, or MEM_FAULT when a request failed. -/
def Call.output (c : Call) (a : Nat) (bs : List Byte) (v : List Nat) (p : Plane) : Plane :=
  let q := storeFail c.fails a bs p
  match failedReqs c.fails a bs.length with
  | [] => c.ok v q
  | bad => c.memFault bad q

/-! ## Staging (R256) -/

/-- A setting applied outside a transaction is part of every Milestone's account (log 23: DESIGN CHOICE, unsafe). -/
def applyNow (i : Nat) (p : Plane) (s : Staged) : Plane :=
  let p := applyStaged i p s
  match s with
  | .ctx id _ _ _ _ => snapCtx p i id (ctxAny p id)
  | .release id => snapCtx p i id none
  | .key sr slot k => modP p i (fun x => { x with snaps := x.snaps.map (fun y =>
      { y with settings :=
        if sr then { y.settings with srkeys := spSet 0#64 y.settings.srkeys slot k }
        else { y.settings with dkeys := spSet 0#64 y.settings.dkeys slot k } }) })
  | _ => p

/-- The backing copy that a setting writes when it applies. -/
def backingOf (p : Plane) (s : Staged) : List Nat :=
  match s with
  | .ctx id _ _ _ _ => [backAddr p id]
  | .release id => [backAddr p id]
  | _ => []

/-- The writes of backing copies that fail; their bytes are as the host leaves them. -/
def backFails (c : Call) (l : List Staged) (p : Plane) : List (Nat × Nat) :=
  (l.flatMap (backingOf p)).flatMap (fun a => failedReqs c.fails a 128)

/-- Stage into the request's transaction, or apply at once. -/
def Call.stage (c : Call) (l : List Staged) (p : Plane) : Plane :=
  if c.q.inTxn then
    match txnOf p c.m c.q.txn with
    | none => c.err stNoTxn p
    | some t =>
      if 4096 < t.staged.length + l.length then c.err stTxnStageFull p
      else c.ok [] { p with txns := spPut p.txns c.q.txn { t with staged := t.staged ++ l } }
  else
    let q := l.foldl (applyNow c.i) p
    match backFails c l p with
    | [] => c.ok [] q
    | bad => c.memFault bad (bad.foldl (fun q r => freeBytes q r.1 r.2) q)

end Sys2Proof.Machine
end

