-- ==== Sys2Proof/Machine/Sessions.lean ====
section
/-! DEFINITION. Sessions (R276 to R278), partitions (R279), the verb codes the table does not list. -/

namespace Sys2Proof.Machine

/-! ## OPEN_SESSION (R276, R281) -/

def openRow : VerbRow := ⟨0x01, anyReq, false, .no⟩

/-- A mailbox belongs to a session. -/
def joinMbx (p : Plane) (m s : Nat) : Plane := modM p m (fun x => { x with
  isOpen := true
  session := s })

/-- The lowest number not in use (log 25: DESIGN CHOICE, unsafe). -/
def freeSession (p : Plane) : Option Nat := (upTo 64 (fun s => (spGet p.sessions s).isNone)).head?

/-- A new session; its cookie is an entropy draw (log 16: DESIGN CHOICE, safe). -/
def newSession (c : Call) (p : Plane) : Plane :=
  if !(getP p (c.arg 0 2 0)).defined then c.err stBadArg p
  else
    match freeSession p with
    | none => c.err stBusy p
    | some s =>
      let k := (Config.freeWord p.freeCtr).toNat % 2 ^ 32
      let p := { p with
        freeCtr := p.freeCtr + 1
        sessions := spPut p.sessions s ⟨c.arg 0 2 0, c.m == 0, c.arg 0 47 32, BitVec.ofNat 32 k, false⟩ }
      c.ok [s, k] (joinMbx p c.m s)

def joinSession (c : Call) (p : Plane) : Plane :=
  let s := c.arg 0 21 16
  match spGet p.sessions s with
  | none => c.err stNotOwner p
  | some x =>
    if x.closing || x.cookie.toNat != c.arg 1 31 0 then c.err stNotOwner p
    else c.ok [s, x.cookie.toNat] (joinMbx p c.m s)

def openRun (c : Call) (p : Plane) : Plane :=
  if (getM p c.m).isOpen then c.err stBusy p
  else if c.q.inTxn then c.err stBadArg p
  else if c.flag 0 8 then (if c.m = 0 then c.err stBadArg p else joinSession c p)
  else newSession c p

def execOpenSession (m : Fin 64) (s : State) : Host.Outcome State Fault Refusal :=
  onPlaneS s (runVerb m.val openRow openRun)

/-! ## The end of a session (R278) -/

/-- Step 1 for one mailbox: the waiting verb is cancelled, an executing one loses its response, and the requests that
have not started are marked. -/
def closeMbx (p : Plane) (m : Nat) : Plane :=
  let p := match (getM p m).exec with
    | some x =>
      if x.verb = 0x14 ∨ x.verb = 0x32 then finish p m (errResp stSessionClosed)
      else modM p m (fun y => { y with exec := some { x with answer := false } })
    | none => p
  modM p m (fun x => { x with closeTail := some x.reqTail })

/-- Steps 1 and 2; the rest follows of itself (`endSession`). -/
def beginEnd (s : Nat) (p : Plane) : Plane :=
  match spGet p.sessions s with
  | none => p
  | some x =>
    let p := (sessionMbxs p s).foldl closeMbx p
    { p with
      txns := p.txns.filter (fun t => t.2.session != s)
      sessions := spPut p.sessions s { x with closing := true } }

def closeRow : VerbRow := ⟨0x02, anyReq, false, .no⟩

/-- CLOSE_SESSION answers first: its own mailbox answers in order (R275, log 26: DEDUCED, unsafe). -/
def closeSessionRun (c : Call) (p : Plane) : Plane := beginEnd c.s (c.ok [] p)

def execCloseSession (m : Fin 64) (s : State) : Host.Outcome State Fault Refusal :=
  onPlaneS s (runVerb m.val closeRow closeSessionRun)

/-- The lease runs out (R277). (log 102: DESIGN CHOICE, unsafe) -/
def detach (k : Nat) (p : Plane) : Plane :=
  match spGet p.sessions k with
  | none => p
  | some x =>
    if x.lease = 0 ∨ x.closing = true ∨ !mbxServed p then p
    else
      let p := raise p .sessionDetach srcCore (some x.part) (toLE 1 k ++ toLE 1 x.part) [.pl 4]
      beginEnd k p

def execSessionDetach (session : Fin 64) (s : State) : Host.Outcome State Fault Refusal :=
  onPlaneS s (detach session.val)

/-! ## PARTITION_SET (R279) -/

/-- (log 101: DESIGN CHOICE, unsafe) -/
def partRow : VerbRow := ⟨0x03, anyReq, true, .no⟩

/-- A window word: LOG2SZ from 12 to 52, its base aligned to its size (R270). -/
def windowOk (w : Nat) : Bool :=
  !bit w 63 || (decide (12 ≤ bits w 57 52) && decide (bits w 57 52 ≤ 52)
    && decide (bits w 51 12 * 4096 % 2 ^ bits w 57 52 = 0))

/-- A session other than the management session, or a task that is not FREE. -/
def partBusy (p : Plane) (i : Nat) : Bool :=
  p.sessions.any (fun s => s.2.part == i && !s.2.mgmt) || !allFree p i

def regionsTaken (p : Plane) (i mask : Nat) : Bool :=
  (List.range 8).any (fun k => k != i && (getP p k).defined && (getP p k).regions.toNat &&& mask != 0)

def coefTotal (p : Plane) (i n : Nat) : Nat :=
  forN 8 0 (fun t k => t + (if k = i then n else if (getP p k).defined then (getP p k).coefCount else 0))

/-- First rows, in ascending order of partition number. -/
def coefPlace (p : Plane) : Plane :=
  (forN 8 (p, 0) (fun a k =>
    let x := getP a.1 k
    if x.defined then (setP a.1 k { x with coefFirst := a.2 }, a.2 + x.coefCount) else a)).1

/-- The window word as PL_WIN shows it: V, LOG2SZ and BASE. -/
def windowWord (w : Nat) : U64 :=
  BitVec.ofNat 64 (bits w 63 63 * 2 ^ 63 + bits w 57 52 * 2 ^ 52 + bits w 51 12 * 2 ^ 12)

def partSetup (c : Call) (i mask rows : Nat) (p : Plane) : Plane :=
  let x := getP p i
  let p := dropHeld p i
  let p := setP p i { x with
    defined := true
    regions := BitVec.ofNat 8 mask
    coefCount := rows
    win := [windowWord (c.q.arg 1), windowWord (c.q.arg 2), windowWord (c.q.arg 3), windowWord (c.q.arg 4)]
    lastClosed := 0
    committed := 0
    settings := Settings.init
    epochs := []
    snaps := []
    journal := []
    preRound := []
    rollbacks := 0
    halted := none
    rollback := none
    starts := [] }
  let p := coefPlace p
  let p := putSnap p i (takeSnap p i 0)
  let p := { p with rdOwner := if c.flag 0 16 then some i else if p.rdOwner = some i then none else p.rdOwner }
  placeAgain p (affected p x.regions.toNat mask)

/-- A deleted partition: its page keeps what the host has written. -/
def partDelete (i : Nat) (p : Plane) : Plane :=
  let x := getP p i
  let p := dropHeld p i
  let p := setP p i { Part.init i with
    msBase := x.msBase
    pncause := x.pncause
    pnen := x.pnen
    pnline := x.pnline }
  let p := coefPlace { p with rdOwner := if p.rdOwner = some i then none else p.rdOwner }
  placeAgain p (affected p x.regions.toNat 0)

def partRun (c : Call) (p : Plane) : Plane :=
  let i := c.arg 0 2 0
  let mask := c.arg 0 15 8
  let rows := 64 * c.arg 0 28 24
  if 1024 < rows ∨ !([1, 2, 3, 4].all (fun n => windowOk (c.q.arg n))) then c.err stBadArg p
  else if partBusy p i then c.err stPartBusy p
  else if mask = 0 then c.ok [] (partDelete i p)
  else if regionsTaken p i mask ∨ 1024 < coefTotal p i rows then c.err stPartInvalid p
  else
    let p := partSetup c i mask rows p
    c.ok [(getP p i).coefFirst] p

def execPartitionSet (m : Fin 64) (s : State) : Host.Outcome State Fault Refusal :=
  onPlaneS s (runVerb m.val partRow partRun)

/-! ## Codes that the table does not list (R281) -/

/-- (log 52: DEDUCED, unsafe) -/
def badVerb (m : Nat) (p : Plane) : Plane :=
  match peekReq p m with
  | none => p
  | some q =>
    if verbCodes.contains q.verb then p
    else answer p m q (errResp stBadVerb)

def execBadVerb (m : Fin 64) (s : State) : Host.Outcome State Fault Refusal := onPlaneS s (badVerb m.val)

end Sys2Proof.Machine
end

