-- ==== Sys2Proof/Machine/Define.lean ====
section
/-! DEFINITION. CTX_DEFINE (R283), TABLE_LOAD (R284), SET_DUTY (R294), KEY_SET (R286), transactions (R256 to
R259). -/

namespace Sys2Proof.Machine

/-! ## Checks of a conversion context (R36, R58, R60, R64, R65, R70, R77) -/

/-- A positive, finite, normal FP32 value. -/
def clipOk (w : Nat) : Bool := !bit w 31 && decide (0 < bits w 30 23) && decide (bits w 30 23 < 255)

def convFields (f : Fmt) (c : Cx) : Bool :=
  !(ctxOsigSrc c && fmtIsBlock f) && ctxRmode c != 3 && ctxFloorSrc c != 3
    && (!ctxClipEn c || clipOk (ctxClip c).toNat) && kerbAllowed f (ctxKerb c)

def usesB (c : Cx) : Bool := ctxSealed c || ctxVer c

/-- Status of a conversion context's definition. -/
def convStatus (p : Plane) (i : Nat) (fails : Fails) (c : Cx) : Nat :=
  match ctxFmt c with
  | none => stCtxInvalid
  | some f =>
    let ptr := ctxShapePtr c
    if alignedTo ptr 128 && !(memOk p i ptr 128 && (failedReqs fails ptr 128).isEmpty) then stMemFault
    else if convFields f c && shapeOk f (shapeAt p ptr) ptr (usesB c) then 0
    else stCtxInvalid

/-! ## Checks of an update context (R198) -/

/-- The conversion context that a field of an update context names, with the roles it needs. -/
def updNames (p : Plane) (id : Nat) (state : Bool) : Bool :=
  match definedCtx p id with
  | none => false
  | some c => roleOk .output c && (!state || (ctxSealed c && !ctxOsigSrc c))

def allDiffer : List Nat → Bool
  | [] => true
  | a :: t => !t.contains a && allDiffer t

def updStatus (p : Plane) (c : Cx) : Nat :=
  if allDiffer [updW c, updM c, updV c, updG c] && updNames p (updW c) true && updNames p (updM c) true
      && updNames p (updV c) true && updNames p (updG c) false then 0
  else stCtxInvalid

/-! ## CTX_DEFINE (R74, R79, R280, R283) -/

/-- A context range of a program that has a task not FREE. -/
def ctxNamed (p : Plane) (i id : Nat) : Bool :=
  (partVengs p i).any (fun v =>
    (getV p v).tasks.any (fun t => t.2.st != .free) && (match (getV p v).prog with
      | none => false
      | some g => g.ranges.any (fun r => decide (r.1 ≤ id) && decide (id < r.1 + r.2))))

/-- Another partition's or another session's context (R280). -/
def ctxForeign (c : Call) (p : Plane) (id : Nat) : Bool :=
  match definedCtx p id with
  | none => false
  | some x => ctxPart x != c.i || ctxOwner x != c.s

/-- The ID holds a context of the other kind. -/
def otherKind (p : Plane) (id : Nat) (upd : Bool) : Bool :=
  ((definedCtx p id).map (fun c => ctxIsUpd c != upd)).getD false

/-- IDs that a staged definition pins. -/
def stagedPins (p : Plane) (t : Txn) : List Nat :=
  t.staged.filterMap (fun s => match s with
    | .ctx id upd supply img session =>
      if ctxPin (defImage id upd supply img ((definedCtx p id).filter (fun c => ctxIsUpd c == upd)) t.part session) then
        some id
      else none
    | _ => none)

/-- Contexts of the set, beside this one, that are pinned or that a definition in an open transaction pins (R79).
(log 141: DESIGN CHOICE, unsafe) -/
def pinFull (p : Plane) (id : Nat) (c : Cx) : Bool :=
  let live := (spKeys p.gaz.ways).filter (fun k => ((ctxGet p k).map ctxPin).getD false)
  let all := (p.txns.flatMap (fun t => stagedPins p t.2)).foldl addNew live
  ctxPin c && decide (8 ≤ (all.filter (fun k => k != id && k % 4096 == id % 4096)).length)

def ctxId24 (c : Call) : Nat := c.arg 0 23 0

def defineRun (upd : Bool) (c : Call) (p : Plane) : Plane :=
  let id := ctxId24 c
  let supply : BitVec 32 := BitVec.ofNat 32 (c.arg 0 63 32)
  let a := c.arg 1 51 0
  let other := otherKind p id upd
  let named := ctxNamed p c.i id
  if ctxForeign c p id then c.err stNotOwner p
  else if other && (named || !(onLists p c.i id).isEmpty) then c.err stCtxBusy p
  else if named && !c.q.inTxn then c.err stCtxBusy p
  else if !alignedTo a 128 then c.err stBadArg p
  else if !c.accessOk p a 128 then c.readFault a 128 p
  else
    let same := if other then none else definedCtx p id
    if same.isNone && !needOk upd supply then c.err stCtxInvalid p
    else
      let img : Cx := BitVec.ofNat 1024 (memNatAt p a 128)
      let x := defImage id upd supply img same c.i c.s
      let st := if upd then updStatus p x else convStatus p c.i c.fails x
      if st = stMemFault then c.readFault (ctxShapePtr x) 128 p
      else if st ≠ 0 then c.err st p
      else if pinFull p id x then c.err stCtxPinFull p
      else c.stage [.ctx id upd supply img c.s] p

def releaseRun (c : Call) (p : Plane) : Plane :=
  let id := ctxId24 c
  if ctxForeign c p id then c.err stNotOwner p
  else if ctxNamed p c.i id || !(onLists p c.i id).isEmpty then c.err stCtxBusy p
  else c.stage [.release id] p

/-- FORM 3 is reserved; the first row of the verb answers it. -/
def convRow : VerbRow := ⟨0x10, fun q => bits (q.arg 0) 25 24 == 0 || bits (q.arg 0) 25 24 == 3, false, .cond⟩
def updRow : VerbRow := ⟨0x10, fun q => bits (q.arg 0) 25 24 == 1, false, .cond⟩
def relRow : VerbRow := ⟨0x10, fun q => bits (q.arg 0) 25 24 == 2, false, .cond⟩

def defConvRun (c : Call) (p : Plane) : Plane :=
  if c.arg 0 25 24 = 3 then c.err stBadArg p else defineRun false c p

def execCtxDefineConversion (m : Fin 64) (fails : Fails) (s : State) : Host.Outcome State Fault Refusal :=
  onPlaneS s (runVerbMem m.val convRow fails defConvRun)

def execCtxDefineUpdate (m : Fin 64) (fails : Fails) (s : State) : Host.Outcome State Fault Refusal :=
  onPlaneS s (runVerbMem m.val updRow fails (defineRun true))

def execCtxRelease (m : Fin 64) (fails : Fails) (s : State) : Host.Outcome State Fault Refusal :=
  onPlaneS s (runVerbMem m.val relRow fails releaseRun)

/-! ## TABLE_LOAD (R205, R284) -/

/-- A word of 32 bits of memory. -/
def memWord (p : Plane) (a : Nat) : U32 := BitVec.ofNat 32 (memNatAt p a 4)

def memWords (p : Plane) (a n : Nat) : List U32 := (List.range n).map (fun k => memWord p (a + 4 * k))

/-- The checks that every TTYPE shares: size of an entry, entries of the table; the answer, or the load. (log 103: DESIGN CHOICE, unsafe) -/
def tableRun (size limit : Nat) (ok : Plane → Nat → Bool) (mk : Plane → Nat → Nat → Staged) (c : Call) (p : Plane) :
    Plane :=
  let first := c.arg 0 31 16
  let count := c.arg 0 47 32
  let a := c.arg 1 51 0
  if a % 16 ≠ 0 ∨ count = 0 ∨ limit < first + count then c.err stBadArg p
  else if !c.accessOk p a (size * count) then c.readFault a (size * count) p
  else if !(List.range count).all (fun k => ok p (a + size * k)) then c.err stTableInvalid p
  else c.stage ((List.range count).map (fun k => mk p (first + k) (a + size * k))) p

/-- MB of 6 or 7 is refused. -/
def actOk (p : Plane) (a : Nat) : Bool := decide (memNatAt p (a + 1) 1 % 8 ≤ 5)

/-- UCLIP must not be a negative normal value, an infinity or NaN (R205). -/
def rowOk (p : Plane) (a : Nat) : Bool :=
  let w := memNatAt p (a + 44) 4
  bits w 30 23 == 0 || (!bit w 31 && bits w 30 23 != 255)

def actRow : VerbRow := ⟨0x11, fun q => bits (q.arg 0) 3 0 == 0 || decide (3 ≤ bits (q.arg 0) 3 0), false, .req⟩
def scaleRow : VerbRow := ⟨0x11, fun q => bits (q.arg 0) 3 0 == 1, false, .req⟩
def coefVerb : VerbRow := ⟨0x11, fun q => bits (q.arg 0) 3 0 == 2, false, .req⟩

def actRun (c : Call) (p : Plane) : Plane :=
  if c.arg 0 3 0 ≠ 0 then c.err stBadArg p
  else tableRun 3088 16 actOk (fun p k a => .act k (memWords p a 772)) c p

def scaleRun (c : Call) (p : Plane) : Plane :=
  tableRun 4 256 (fun _ _ => true) (fun p k a => .scale k (memWord p a)) c p

def coefRun (c : Call) (p : Plane) : Plane :=
  let x := getP p c.i
  tableRun 64 x.coefCount rowOk (fun p k a => .row (x.coefFirst + k) (memWords p a 12)) c p

def execTableLoadActivation (m : Fin 64) (fails : Fails) (s : State) : Host.Outcome State Fault Refusal :=
  onPlaneS s (runVerbMem m.val actRow fails actRun)

def execTableLoadScale (m : Fin 64) (fails : Fails) (s : State) : Host.Outcome State Fault Refusal :=
  onPlaneS s (runVerbMem m.val scaleRow fails scaleRun)

def execTableLoadCoefficient (m : Fin 64) (fails : Fails) (s : State) : Host.Outcome State Fault Refusal :=
  onPlaneS s (runVerbMem m.val coefVerb fails coefRun)

/-! ## SET_DUTY (R294), KEY_SET (R286) -/

def dutyRow : VerbRow := ⟨0x12, anyReq, false, .req⟩

def dutyRun (c : Call) (p : Plane) : Plane :=
  let d := c.arg 0 3 0
  if 11 < d then c.err stBadArg p
  else if 6 ≤ d ∧ d ≤ 9 ∧ isMgmt p c.s = false then c.err stNoPriv p
  else c.stage [.duty d (c.flag 0 8)] p

def execSetDuty (m : Fin 64) (s : State) : Host.Outcome State Fault Refusal :=
  onPlaneS s (runVerb m.val dutyRow dutyRun)

def keyRow : VerbRow := ⟨0x16, anyReq, false, .cond⟩

def keyRun (c : Call) (p : Plane) : Plane :=
  if !c.q.inTxn && !allFree p c.i then c.err stNoTxn p
  else c.stage [.key (c.flag 0 0) (c.arg 0 11 8) (BitVec.ofNat 64 (c.q.arg 1))] p

def execKeySet (m : Fin 64) (s : State) : Host.Outcome State Fault Refusal :=
  onPlaneS s (runVerb m.val keyRow keyRun)

/-! ## Transactions (R256 to R259) -/

def beginRow : VerbRow := ⟨0x13, anyReq, false, .no⟩

/-- The lowest handle from 1 that is not in use (log 25: DESIGN CHOICE, unsafe). -/
def freeHandle (p : Plane) : Nat := ((upTo 66 (fun h => h != 0 && (spGet p.txns h).isNone)).head?).getD 1

def beginTxnRun (c : Call) (p : Plane) : Plane :=
  if 64 ≤ p.txns.length ∨ 8 ≤ (p.txns.filter (fun t => t.2.mbx == c.m)).length then c.err stTxnLimit p
  else
    let h := freeHandle p
    c.ok [h] { p with txns := spPut p.txns h ⟨c.m, c.s, c.i, [], none⟩ }

def execTxnBegin (m : Fin 64) (s : State) : Host.Outcome State Fault Refusal :=
  onPlaneS s (runVerb m.val beginRow beginTxnRun)

/-- The seal Crossing of epoch `n` has released (R257). -/
def sealReleased (x : Part) (n : Nat) : Bool := decide (n ≤ x.committed) || (epGet x n).phase != .running

/-- Plane duties apply at acceptance (R294); the rest waits for its boundary. -/
def commitTxnRun (c : Call) (p : Plane) : Plane :=
  let h := c.q.txn
  match txnOf p c.m h with
  | none => c.err ((handleError p c.m h).getD stNoTxn) p
  | some t =>
    let x := getP p c.i
    let ate : Option Nat := if c.flag 0 0 then some (c.arg 0 63 16) else none
    if 64 ≤ x.journal.length + (p.txns.filter (fun t => t.2.part == c.i && t.2.commit.isSome)).length then
      c.err stTxnFull p
    else if (ate.map (fun a => sealReleased x (a - 1))).getD false then c.err stTxnLate p
    else
      let t := { t with commit := some ⟨ate, p.order⟩ }
      let p := (t.staged.filter isPlaneDuty).foldl (applyStaged c.i) p
      let p := c.wait (.txnSwitch h) { p with txns := spPut p.txns h t }
      if ate.isNone && allFree p c.i then
        let n := running p c.i
        switchTxn c.i n (epGet (getP p c.i) n).ordinal n p (h, t)
      else p

def commitTxnRow : VerbRow := ⟨0x14, anyReq, false, .no⟩

def execTxnCommit (m : Fin 64) (s : State) : Host.Outcome State Fault Refusal :=
  onPlaneS s (runVerb m.val commitTxnRow commitTxnRun)

def abortRow : VerbRow := ⟨0x15, anyReq, false, .no⟩

def abortRun (c : Call) (p : Plane) : Plane :=
  match txnOf p c.m c.q.txn with
  | none => c.err ((handleError p c.m c.q.txn).getD stNoTxn) p
  | some _ => c.ok [] { p with txns := spDel p.txns c.q.txn }

def execTxnAbort (m : Fin 64) (s : State) : Host.Outcome State Fault Refusal :=
  onPlaneS s (runVerb m.val abortRow abortRun)

end Sys2Proof.Machine
end

