-- ==== Sys2Proof/Machine/Update.lean ====
section
/-! DEFINITION. The Update Unit: UPD in diagonal and block-matrix mode (chapter 09, R176). -/

namespace Sys2Proof.Machine

/-! ## The recurrence (R205, R207, R208) -/

/-- A coefficient row as the Update Unit reads it. -/
structure Coef where
  aM : U32
  bM : U32
  aV : U32
  bV : U32
  betaM : U32
  betaV : U32
  eps : U32
  aW : U32
  bW : U32
  cW : U32
  gs : U32
  uclip : U32
deriving DecidableEq, Repr

/-- Subnormal codes and -0 read as +0 (R205). -/
def coefRead (c : U32) : U32 := if xIsZero (fp32Read c) then 0#32 else c

def coefRow (p : Plane) (i row : Nat) : Coef :=
  let w (k : Nat) : U32 := coefRead (coefAt p i row k)
  ⟨w 0, w 1, w 2, w 3, w 4, w 5, w 6, w 7, w 8, w 9, w 10, w 11⟩

def gammaLoop : Nat → Nat → U32 → U32 → U32
  | 0, _, r, _ => r
  | fuel + 1, n, r, b =>
    if n = 0 then r
    else
      let r := if n % 2 = 1 then pMul r b else r
      gammaLoop fuel (n / 2) r (if 0 < n / 2 then pMul b b else b)

/-- R208. -/
def gammaOf (beta : U32) (t : Nat) : U32 := pDiv one32 (pSub one32 (gammaLoop 33 t one32 beta))

/-- sign(p) of R207. -/
def signOf (p : U32) : U32 :=
  match fp32Read p with
  | .nan => qnan32
  | v => if xIsZero v then 0#32 else if xSign v then 0xBF800000#32 else one32

/-- The clip of R207; the flag says that it acted. -/
def clipU (r : Coef) (u : U32) : U32 × Bool :=
  if r.uclip = 0#32 then (u, false)
  else
    let b := fp32Read r.uclip
    match fp32Read u with
    | .nan => (u, false)
    | v =>
      if xLt b v then (r.uclip, true)
      else if xLt v (xNeg b) then (r.uclip ^^^ 0x80000000#32, true)
      else (u, false)

def weightOf (r : Coef) (w u g : U32) : U32 := pAdd (pAdd (pMul r.aW w) (pMul r.bW u)) (pMul r.cW g)

/-- One element: w', m', v' and whether u was clipped. -/
structure UpdOut where
  w : U32
  m : U32
  v : U32
  clipped : Bool
deriving DecidableEq, Repr

def updElem (r : Coef) (gm gv : U32) (uexp : Nat) (sgnp rawg : Bool) (w m v g : U32) : UpdOut :=
  let g := pMul g r.gs
  let m := pAdd (pMul r.aM m) (pMul r.bM g)
  let v := pAdd (pMul r.aV v) (pMul (pMul r.bV g) g)
  let q := pMul v gv
  let p := if rawg then g else pMul m gm
  let p := if sgnp then signOf p else p
  let d := pAdd q r.eps
  let u := match uexp with
    | 0 => p
    | 1 => pDiv p (pSqrt d)
    | _ => pDiv p d
  let c := clipU r u
  ⟨weightOf r w c.1 g, m, v, c.2⟩

/-! ## Block-matrix mode (R211 to R213) -/

/-- Index of entry (i, j), i at most j, in the upper triangle of a k by k block. -/
def triIdx (k i j : Nat) : Nat := i * k + j - (i * (i + 1)) / 2

/-- xr of R212: a less the sum of the products, rounded once. -/
def xrOf (a : U32) (ps : List (U32 × U32)) : U32 :=
  (xToFp32 (ps.foldl (fun s p => xSub s (xMul (fp32Read p.1) (fp32Read p.2))) (fp32Read a))).1

def posU (d : U32) : Bool := xLt (.fin dyZero) (fp32Read d)

/-- Lower triangle under construction: entry (i, j) at key i * 8 + j. -/
abbrev Tri := Sparse U32

def triGet (t : Tri) (i j : Nat) : U32 := spGetD t (i * 8 + j) 0#32

def cholCol (q : List U32) (eps : U32) (k j : Nat) (l : Tri) : Option Tri :=
  let a := pAdd (q.getD (triIdx k j j) 0#32) eps
  let d := xrOf a ((List.range j).map (fun c => (triGet l j c, triGet l j c)))
  if posU d then
    let ljj := pSqrt d
    let l := spPut l (j * 8 + j) ljj
    some ((List.range (k - 1 - j)).foldl (fun l n =>
      let i := j + 1 + n
      let s := xrOf (q.getD (triIdx k j i) 0#32) ((List.range j).map (fun c => (triGet l i c, triGet l j c)))
      spPut l (i * 8 + j) (pDiv s ljj)) l)
  else none

def chol (q : List U32) (eps : U32) (k : Nat) : Option Tri :=
  (List.range k).foldl (fun l j => l.bind (cholCol q eps k j)) (some [])

def solveLow (l : Tri) (ps : List U32) (k : Nat) : List U32 :=
  (List.range k).foldl (fun y i =>
    y ++ [pDiv (xrOf (ps.getD i 0#32) ((List.range i).map (fun c => (triGet l i c, y.getD c 0#32))))
      (triGet l i i)]) []

/-- From the last unknown upwards. -/
def solveUp (l : Tri) (y : List U32) (k : Nat) : List U32 :=
  (List.range k).foldl (fun u n =>
    let i := k - 1 - n
    pDiv (xrOf (y.getD i 0#32) ((List.range n).map (fun c => (triGet l (i + 1 + c) i, u.getD c 0#32))))
      (triGet l i i) :: u) []

/-- Attempts of R212: the solution, if any, and the escalations. -/
def solveBlock (q ps : List U32) (k : Nat) : Nat → U32 → Nat → Option (List U32) × Nat
  | 0, _, ridges => (none, ridges)
  | n + 1, eps, ridges =>
    match chol q eps k with
    | some l => (some (solveUp l (solveLow l ps k) k), ridges)
    | none => if n = 0 then (none, ridges) else solveBlock q ps k n (pMul eps 0x41800000#32) (ridges + 1)

inductive BlockEnd where
  | solved
  | fallback
  | singular
deriving DecidableEq, Repr

structure BlockOut where
  w : List U32
  m : List U32
  v : List U32
  clips : Nat
  ridges : Nat
  how : BlockEnd
deriving DecidableEq, Repr

/-- Entries (i, j) of the upper triangle in stored order. -/
def triPairs (k : Nat) : List (Nat × Nat) :=
  (List.range k).flatMap (fun i => (List.range (k - i)).map (fun d => (i, i + d)))

def updBlock (r : Coef) (gm gv : U32) (k : Nat) (rawg hw : Bool) (ws ms vs gs : List U32) : BlockOut :=
  let g := gs.map (fun x => pMul x r.gs)
  let m := (ms.zip g).map (fun x => pAdd (pMul r.aM x.1) (pMul r.bM x.2))
  let ps := if rawg then g else m.map (fun x => pMul x gm)
  let v := ((triPairs k).zip vs).map (fun x =>
    pAdd (pMul r.aV x.2) (pMul (pMul r.bV (g.getD x.1.1 0#32)) (g.getD x.1.2 0#32)))
  let q := v.map (fun x => pMul x gv)
  let s := solveBlock q ps k 5 r.eps 0
  let done (us : List U32) (how : BlockEnd) : BlockOut :=
    let cs := us.map (clipU r)
    let w := ((ws.zip cs).zip g).map (fun x => weightOf r x.1.1 x.1.2.1 x.2)
    ⟨w, m, v, (cs.filter Prod.snd).length, s.2, how⟩
  match s.1 with
  | some us => done us .solved
  | none =>
    if hw then
      done ((ps.zipIdx).map (fun x => pDiv x.1 (pAdd (q.getD (triIdx k x.2 x.2) 0#32) r.eps))) .fallback
    else ⟨ws, ms, vs, 0, s.2, .singular⟩

/-! ## Operands of a UPD (R200, R201, R203) -/

/-- Elements per matrix block; 1 in diagonal mode. -/
structure UpdMode where
  k : Nat
deriving DecidableEq, Repr

def tkOf (m : UpdMode) : Nat := if m.k = 1 then 1 else m.k * (m.k + 1) / 2

/-- Range of v that a range of parameters covers (R211). -/
def vRange (m : UpdMode) (l0 n : Nat) : Nat × Nat := (tkOf m * (l0 / m.k), tkOf m * (n / m.k))

/-- R203 for one range of one tensor. -/
def updShape (p : Plane) (id l0 n : Nat) : List Code :=
  match ctxGet p id with
  | none => []
  | some c =>
    let sh := shapeOf p c
    let s0 := max (size0 sh) 1
    if l0 % s0 + n ≤ s0 ∧ l0 + n ≤ elemsOf sh then
      if ((ctxFmt c).map fmtIsBlock).getD false && !lineBlocks sh l0 n then [.blockAlign] else []
    else [.fieldRange]

/-- One stored value as an FP32 operand; the flag says that it left the range (R200). -/
def updRead (c : Cx) (v : XVal) : U32 × Bool :=
  let s := match v with
    | .fin d => .fin (dyScale d (-(ctxOsig c)))
    | x => x
  let r := xToFp32 s
  (r.1, r.2 || (match v with
    | .fin _ => decide (r.1.toNat % 2 ^ 31 = 0x7F800000)
    | _ => false))

/-- Committed values of a range (R201). -/
def updVals (p : Plane) (id l0 n : Nat) : List (U32 × Bool) :=
  match ctxGet p id with
  | none => []
  | some c =>
    match ctxFmt c with
    | none => []
    | some f => (List.range n).map (fun j => updRead c (tensorRead p.mem f (shapeOf p c) (ctxVer c) (l0 + j)))

/-- Memory requests of the read of a range. -/
def updReads (e : Env) (fid id l0 n : Nat) (p : Plane) : Plane :=
  match ctxGet p id with
  | none => p
  | some c =>
    match ctxFmt c with
    | none => p
    | some f =>
      (tensorBytes f (shapeOf p c) (ctxVer c) l0 n).foldl (fun p s =>
        readReqs p e.pi e.v e.s fid s.1 s.2.length) p

def updN (e : Env) (f : UpdF) : Nat := e.r32 f.nreg

/-- Buffer operand of the gradient line. -/
def updGrad (p : Plane) (e : Env) (f : UpdF) : BufAt × List Code :=
  let u := match (ctxGet p f.uctx.toNat).filter ctxIsUpd with
    | some c => unitsAt p (updG c) (updN e f)
    | none => 1
  bufResolve p e.v (e.r f.greg) f.goff.toNat u .read

/-- The mode's own conditions (R211). -/
def updModeOk (m : UpdMode) (e : Env) (f : UpdF) : Bool :=
  m.k == 1 || (decide (e.r36 f.lreg % m.k = 0) && decide (updN e f % m.k = 0) && f.uexp.toNat == 2 && !f.sgnp)

def updHead (m : UpdMode) (f : UpdF) (p : Plane) (e : Env) : List Code :=
  let n := updN e f
  let l0 := e.r36 f.lreg
  rangeFault (decide (1 ≤ n) && decide (f.crow.toNat < (getP p e.pi).coefCount) && updModeOk m e f)
    ++ (match (ctxGet p f.uctx.toNat).filter ctxIsUpd with
      | none => []
      | some u =>
        let g0 := max (size0 (shAt p (updG u))) 1
        let r := vRange m l0 n
        updShape p (updW u) l0 n ++ updShape p (updM u) l0 n ++ updShape p (updV u) r.1 r.2
          ++ lineFault p (updG u) (l0 % g0))
    ++ (updGrad p e f).2

/-- The contexts a UPD needs: its update context, and then the four that it names. (log 69: DEDUCED, unsafe) -/
def updCtxs (f : UpdF) (p : Plane) : List (Nat × Role) :=
  (f.uctx.toNat, Role.update) :: (match (ctxGet p f.uctx.toNat).filter ctxIsUpd with
    | some u => [(updW u, Role.any), (updM u, Role.any), (updV u, Role.any), (updG u, Role.any)]
    | none => [])

/-- (log 37: DEDUCED, unsafe) -/
def updPlan (m : UpdMode) (ill : Bool) (f : UpdF) (p : Plane) (e : Env) : Plan :=
  let id := f.uctx.toNat
  let t := ((ctxGet p id).map updT).getD 0
  { plan0 with
    ill := ill || f.uexp.toNat == 3
    head := updHead m f p e
    ctxs := updCtxs f p
    outs := (((updCtxs f p).drop 1).take 3).map Prod.fst
    holds := if (getP p e.pi).committed + 1 < e.ep then [7] else []
    check := if e.r32 f.treg = t then none else some (.stepSkew, toLE 4 id)
    flies := true
    memTrk := true
    tag := some f.tag.toNat
    rd := [(updGrad p e f).1]
    skew := some id }

/-! ## Effect -/

/-- What a whole UPD computes. -/
structure UpdSum where
  w : List U32
  m : List U32
  v : List U32
  clips : Nat
  ridges : Nat
  fell : List Nat
  sing : List Nat
deriving DecidableEq, Repr

def updDiag (r : Coef) (gm gv : U32) (f : UpdF) (w m v g : List U32) : UpdSum :=
  let os := (((w.zip m).zip v).zip g).map (fun x =>
    updElem r gm gv f.uexp.toNat f.sgnp f.rawg x.1.1.1 x.1.1.2 x.1.2 x.2)
  ⟨os.map UpdOut.w, os.map UpdOut.m, os.map UpdOut.v, (os.filter UpdOut.clipped).length, 0, [], []⟩

def updBlocks (r : Coef) (gm gv : U32) (md : UpdMode) (rawg hw : Bool) (l0 n : Nat) (w m v g : List U32) :
    UpdSum :=
  (List.range (n / md.k)).foldl (fun s b =>
    let cut (l : List U32) : List U32 := (l.drop (b * md.k)).take md.k
    let o := updBlock r gm gv md.k rawg hw (cut w) (cut m) ((v.drop (b * tkOf md)).take (tkOf md)) (cut g)
    { w := s.w ++ o.w
      m := s.m ++ o.m
      v := s.v ++ o.v
      clips := s.clips + o.clips
      ridges := s.ridges + o.ridges
      fell := if o.how = .fallback then s.fell ++ [l0 + b * md.k] else s.fell
      sing := if o.how = .singular then s.sing ++ [l0 + b * md.k] else s.sing })
    ⟨[], [], [], 0, 0, [], []⟩

/-- Counters, RAN and RAN_TAG of the update context (R197, R209). -/
def updCount (u : Cx) (n ep flush : Nat) (s : UpdSum) : Cx :=
  let u := setFld u 639 576 ((fld u 639 576 + n) % 2 ^ 64)
  let u := ctxCount (ctxCount u 703 672 flush) 735 704 s.fell.length
  let u := ctxCount (ctxCount u 767 736 s.ridges) 799 768 s.clips
  setFld (setFld u 416 416 1) 399 352 (ep % 2 ^ 48)

/-- Records and counts of singular blocks (R213). -/
def updSingular (e : Env) (id ugid : Nat) (s : UpdSum) (p : Plane) : Plane :=
  let p := match s.fell with
    | [] => p
    | b :: _ =>
      let first := !(epGet (getP p e.pi) e.ep).fellBack.contains id
      let p := modEp p e.pi e.ep (fun x =>
        { x with
          fallbackCnt := x.fallbackCnt + (s.fell.length - (if first then 1 else 0))
          fellBack := addNew x.fellBack id })
      let p := ledgerAdd p 1460 s.fell.length
      if first then raise p .updFallback e.src (some e.pi) (dExec e.v e.s ugid b 0 0 0) [.count e.pi e.ep .fallback]
      else p
  match s.sing with
  | [] => p
  | b :: _ =>
    let p := modEp p e.pi e.ep (fun x => { x with status := x.status ||| 0x20 })
    raise p .updSingular e.src (some e.pi) (dExec e.v e.s ugid b 0 s.sing.length 0) [.pn e.pi 4]

/-- The committed codes of a tensor. -/
def storedCode (p : Plane) (id idx : Nat) : Option StoredCode :=
  (ctxGet p id).bind (fun c => (ctxFmt c).bind (fun f =>
    (storedAt p.mem f (shapeOf p c) (ctxVer c) idx).map Prod.fst))

/-- Write a range; the elements of `keep` as they were read. -/
def updWrite (e : Env) (fid id l0 : Nat) (keep : List Nat) (vs : List U32) (p : Plane) : Plane :=
  emitMem p e fid id (((ctxGet p id).map ctxRmode).getD 0)
    ((vs.zipIdx).map (fun x => (⟨l0 + x.2, x.1, false,
      if keep.contains (l0 + x.2) then storedCode p id (l0 + x.2) else none⟩ : OutVal)))

/-- The elements of blocks of `k`, block `b` of parameters starting at `b` blocks of `d`. -/
def spread (k d : Nat) (bs : List Nat) : List Nat := bs.flatMap (fun b => (List.range k).map (fun j => b / d * k + j))

/-- (log 68: DEDUCED, unsafe) -/
def updRun (md : UpdMode) (f : UpdF) (p : Plane) (e : Env) (fid : Nat) : Plane :=
  let id := f.uctx.toNat
  match ctxGet p id with
  | none => p
  | some u =>
    let n := updN e f
    let l0 := e.r36 f.lreg
    let vr := vRange md l0 n
    let r := coefRow p e.pi f.crow.toNat
    let gm := gammaOf r.betaM (updT u)
    let gv := gammaOf r.betaV (updT u)
    let w := updVals p (updW u) l0 n
    let m := updVals p (updM u) l0 n
    let v := updVals p (updV u) vr.1 vr.2
    let gc := (ctxGet p (updG u)).getD 0
    let g := (lineVals p (updG u) (updGrad p e f).1 n).map (updRead gc)
    let flush := ((w ++ m ++ v ++ g).filter Prod.snd).length
    let codes (l : List (U32 × Bool)) : List U32 := l.map Prod.fst
    let s := if md.k = 1 then updDiag r gm gv f (codes w) (codes m) (codes v) (codes g)
      else updBlocks r gm gv md f.rawg (dutyHw p e.pi 10) l0 n (codes w) (codes m) (codes v) (codes g)
    let p := updReads e fid (updV u) vr.1 vr.2 (updReads e fid (updM u) l0 n (updReads e fid (updW u) l0 n p))
    let ks := spread md.k md.k s.sing
    let p := updWrite e fid (updV u) vr.1 (spread (tkOf md) md.k s.sing) s.v
      (updWrite e fid (updM u) l0 ks s.m (updWrite e fid (updW u) l0 ks s.w p))
    let p := ctxUpd p e.pi e.ep id (fun u => updCount u n e.ep flush s)
    let p := modEp p e.pi e.ep (fun x =>
      { x with updCtx := if x.updCtx.any (fun k => k.1 == id) then x.updCtx else x.updCtx ++ [(id, updT u)] })
    updSingular e id (ctxGid u) s p

/-- UMODE of a block-matrix UPD; the reserved one raises ILLEGAL_OP. -/
def blockMode (k : BlockK) : UpdMode :=
  match k with
  | .k4 => ⟨4⟩
  | .k8 => ⟨8⟩
  | .reserved => ⟨4⟩

end Sys2Proof.Machine
end

