-- ==== Sys2Proof/Machine/Engine.lean ====
section
/-! DEFINITION. The sequencer (R140, R163 to R167, R191, R192): which slot's instruction issues, the head check, the
issue check, the effect; and the meaning of every engine instruction. -/

namespace Sys2Proof.Machine

/-! ## The instruction of a slot -/

/-- The OP of the descriptor that a COLL names (R220). -/
def collOpAt (p : Plane) (e : Env) (f : XferF) : Nat := dOp (readDesc p (memAddr (rGet e.t.regs f.mreg) f.moff))

/-- The instruction that the word at the task's PC spells, as issue `i`. -/
def fetched (p : Plane) (e : Env) (i : Issue) : Option Instr := decodeInsn (collOpAt p e) i (insnAt p e).toNat

/-- What an instruction asks for. -/
def planFor (c : Instr) : Plane → Env → Plan :=
  match c with
  | .mma _ f => mmaPlan f
  | .ldw _ f => ldwPlan f
  | .conv _ f => convPlan f
  | .ewiseMov _ f => ewisePlan true f
  | .ewiseAdd _ f | .ewiseSub _ f | .ewiseMul _ f => ewisePlan false f
  | .redSum _ f => sumPlan f
  | .redMax _ f | .redMin _ f => winPlan f
  | .updDiagonal _ f => updPlan ⟨1⟩ false f
  | .updBlockMatrix _ f k => updPlan (blockMode k) (k == .reserved) f
  | .load _ f => copyPlan .fill f
  | .store _ f => copyPlan .read f
  | .xload _ f | .xtload _ f => exactLoadPlan f
  | .xstore _ f | .xtstore _ f => exactStorePlan true f
  | .xsend _ f => exactStorePlan false f
  | .square _ f => squarePlan f
  | .streamStart _ f => startPlan f
  | .rowInstall _ f => installPlan f
  | .rowEvict _ f => evictPlan f
  | .rsX _ f | .arX _ f | .ag _ f | .bc _ f | .maxr _ f | .minr _ f | .arC _ f | .pre _ f | .digxSum _ f
  | .digxAll _ f | .status _ f | .maxx _ f => collPlan f
  | .ringSeq _ f _ => seqPlan f
  | .ringTurn _ _ _ => turnPlan
  | .ringSend _ f | .ringMcast _ f => sendPlan f
  | .ringRecv _ f => recvPlan f
  | .hqPut _ f => putPlan f
  | .hqGet _ f => getPlan f
  | .crossArrive _ cid mreg => arrivePlan cid mreg
  | .crossWait _ cid => waitPlan cid
  | .swap _ => swapPlan
  | .wait _ m => tagPlan m
  | .ctxSnapshot _ f => ctxPlan true f
  | .ctxReset _ f => ctxPlan false f
  | .sealClose _ _ => closePlan
  | .sealAwait _ => awaitPlan
  | .br _ f => brPlan f
  | .loop _ f => loopPlan f
  | .aluRdspec _ f => rdspecPlan f
  | .setp _ f => setpPlan f
  | .halt _ => haltPlan
  | _ => planNone

/-! ## Whose turn it is (R140, R164, R191) -/

/-- The issue that the word at the slot's PC asks for. -/
def issueAt (p : Plane) (v s : Nat) : Issue :=
  rIssue (Fin.ofNat 64 v) (Fin.ofNat 16 s) (memNatAt p (insnAddr p v (getT p v s).regs.pc) 16)

/-- The instruction of the slot can issue: its head check passes and nothing of R140 holds it. -/
def slotReady (p : Plane) (v s : Nat) : Bool :=
  let i := issueAt p v s
  match gate p i with
  | .go pi =>
    let e := envOf p i pi
    match fetched p e i with
    | none => false
    | some c =>
      let pl := planFor c p e
      decide (e.t.regs.pc < ninsnOf p v) && !pl.ill
        && (guardOff e.t.regs i || ((firstHead pl.head).isNone && (holdFirst (holdsOf p e pl)).isNone))
  | _ => false

/-- The ACTIVE slots of a virtual engine in the order of choice: the highest priority first, and within one
priority round-robin from the slot after the one that issued last. -/
def slotOrder (p : Plane) (v : Nat) : List Nat :=
  [3, 2, 1, 0].flatMap (fun q =>
    ((List.range 16).map (fun k => (spGetD (getV p v).rr q 15 + 1 + k) % 16)).filter (fun s =>
      (getT p v s).st == .active && (getT p v s).regs.prio == q))

def readySlot (p : Plane) (v : Nat) : Option (Nat × Nat) :=
  ((slotOrder p v).find? (slotReady p v)).map (fun s => (v, s))

/-- The virtual engine and slot that a physical engine issues from: the current virtual engine's while any of its
tasks can issue. -/
def chosen (p : Plane) (h : Nat) : Option (Nat × Nat) :=
  let l := hostedOn p h
  let c := (getPhys p h).cur
  ((if l.contains c then readySlot p c else none) :: (l.filter (fun v => v != c)).map (readySlot p)).findSome? id

def onTurn (p : Plane) (i : Issue) : Bool :=
  chosen p (homePort p i.veng.val) == some (i.veng.val, i.slot.val)

/-- No slot can issue, and this is the one that R164 would choose first (R366). -/
def waitsFirst (p : Plane) (i : Issue) : Bool :=
  (chosen p (homePort p i.veng.val)).isNone && (slotOrder p i.veng.val).head? == some i.slot.val

/-- The counter of the wait, and PACE_HELD where an empty bucket holds the handshake (R366, R367; log 2: DESIGN
CHOICE, unsafe for the counters). -/
def countWait (p : Plane) (i : Issue) (k : Nat) (bucket : Bool) : Plane :=
  if !waitsFirst p i then p
  else if bucket then stallR (stallV p i.veng.val k 1) (homePort p i.veng.val / 8) 10 1
  else stallV p i.veng.val k 1

/-! ## Reads that wait for a Square (R109) -/

/-- The OPEN Square that the read at the slot's PC waits for. -/
def waitedSquare (p : Plane) (v s i : Nat) : Option (Nat × Square) :=
  let e := envOf p (issueAt p v s) i
  match fetched p e e.i with
  | none => none
  | some c =>
    let pl := planFor c p e
    if guardOff e.t.regs e.i || pl.ill || (firstHead pl.head).isSome then none
    else
      ((pl.groups.filter (fun g => g.2 == .read)).filterMap (fun g => match (getG (getV p v) g.1).st with
        | .square q => ((spGet (getV p v).squares q).filter (fun x => x.st == .opened)).map (fun x => (q, x))
        | _ => none)).head?

/-- A read that has waited 2^24 ROC counts raises SQUARE_STALL once. -/
def squareStall (v s : Nat) (p : Plane) : Plane :=
  match partOf p v with
  | none => p
  | some i =>
    let t := getT p v s
    if t.st ≠ .active ∨ t.stallRec = true then p
    else
      match waitedSquare p v s i with
      | none => p
      | some q =>
        raise (modT p v s (fun t => { t with stallRec := true })) .squareStall (homePort p v) (some i)
          (squareImage q.1 q.2) []

/-! ## Writers that wait for a held buffer (R250) -/

/-- The writer at the slot's PC waits for a handle of HOLD_HQ. -/
def writerWaits (p : Plane) (v s : Nat) : Bool :=
  let i := issueAt p v s
  match gate p i with
  | .go pi =>
    let e := envOf p i pi
    (match fetched p e i with
    | none => false
    | some c =>
      let pl := planFor c p e
      !guardOff e.t.regs i && !pl.ill && (firstHead pl.head).isNone && heldWriter p e pl)
  | _ => false

/-- The epochs of a partition in which a writer waits. -/
def heldEpochs (p : Plane) (i : Nat) : List Nat :=
  ((getP p i).epochs.filter (fun e => !e.heldWait.isEmpty)).map EpRec.n
    ++ ((List.range 64).filter (fun v => partOf p v == some i)).flatMap (fun v =>
      ((List.range 16).filter (writerWaits p v)).map (fun s => (getT p v s).epoch))

/-- HOLD_FULL: a writer has waited 2^24 counts on an empty HOLD_HQ. The detail names the queue (log 91). -/
def holdFull (i : Nat) (p : Plane) : Plane :=
  match heldEpochs p i with
  | [] => p
  | n :: _ =>
    if (epGet (getP p i) n).holdFullRec then p
    else
      raise (modEp p i n (fun e => { e with holdFullRec := true })) .holdFull srcCore (some i)
        (toLE 4 (2 ^ 31 + (getP p i).policy.holdHq)) [.pn i 5]

/-- HOLD_FULL (R250). -/
def execHoldFull (part : Fin 8) (s : State) : Host.Outcome State Fault Refusal := onPlaneS s (onReady (holdFull part.val))

/-! ## Buffers that a stop passes on (R153, R179) -/

/-- A TURN of a slot of the engine stands at its PC: the halves of this turn are released. -/
def turning (p : Plane) (v : Nat) : Bool :=
  (List.range 16).any (fun s => (getT p v s).st == .active && (match partOf p v with
    | none => false
    | some i =>
      let e := envOf p (issueAt p v s) i
      !guardOff e.t.regs e.i && (match fetched p e e.i with
        | some (.ringTurn _ _ _) => true
        | _ => false)))

/-! ## Storage errors (R165, R260, R333) -/

/-- The slots that name a region of the buffer: the issuing one and those with accesses in flight. -/
def stopNamingRegion (p : Plane) (e : Env) (r : Nat × Nat) : Plane :=
  let l := (p.flights.filter (fun f => f.veng == e.v && (f.bufRd.contains r || f.bufWr.contains r))).map Flight.slot
  (l.foldl addNew [e.s]).foldl (fun p s => stopSlot p e.v s) p

/-- One storage error of an instruction; the answer is false when the instruction does not take effect. -/
def storeErr (e : Env) (rs : List (Nat × Nat)) (p : Plane) (x : StoreErr) : Plane × Bool :=
  let buf (h : Bool) (u : Nat) : Nat × Nat := (e.v, 48 * h.toNat + u / 512)
  let rec' (p : Plane) (c : Code) (u : Nat) : Plane :=
    raise p c e.src (some e.pi) (dArray e.v e.s 0 u 0 e.t.regs.pc (zeros 16)) []
  let fixed (k : Nat) : Plane := ledgerAdd p (224 + 16 * e.src + k) 1
  match x with
  | .bufCE h u =>
    if rs.contains (buf h u.toNat) then (rec' (fixed (12 + h.toNat)) .bufCe u.toNat, true) else (p, true)
  | .bufUE h u =>
    if rs.contains (buf h u.toNat) then
      let p := stopNamingRegion (ledgerAdd (rec' p .bufUe u.toNat) (96 + e.src) 1) e (buf h u.toNat)
      let again := (getPhys p e.src).ueBanks.contains (192 + h.toNat)
      let p := modPhys p e.src (fun x => { x with ueBanks := addNew x.ueBanks (192 + h.toNat) })
      (rollbackOf (if again then hardFence p e.src else p) e.src 3, false)
    else (p, true)
  | .cacheSingle => (fixed 14, true)
  | .cacheDouble => (p, true)
  | .regCE => (fixed 15, true)
  | .tableCE t n => tableErr (some e.pi) t n.toNat false p
  | .tableUE t n => tableErr (some e.pi) t n.toNat true p

def storeErrs (e : Env) (rs : List (Nat × Nat)) : List StoreErr → Plane → Plane × Bool
  | [], p => (p, true)
  | x :: t, p =>
    let r := storeErr e rs p x
    if r.2 then storeErrs e rs t r.1 else r

/-- The effect, unless a storage error stops it. -/
def stored (i : Issue) (pl : Plan) (run : Plane → Env → Nat → Plane) (p : Plane) (e : Env) (id : Nat) : Plane :=
  let r := storeErrs e (rdRegions pl ++ wrRegions pl ++ pl.keep) i.errs p
  if r.2 then run r.1 e id else r.1

/-! ## The issue of an instruction -/

/-- Past the head check: the waits of R140, the turn, the issue check, the effect. A held attempt counts its wait
when it is the one that R366 counts, and asks for its contexts (R78). (log 18: DESIGN CHOICE, safe) -/
def tryIssue (p : Plane) (e : Env) (w : BitVec 128) (pl : Plan) (run : Plane → Env → Nat → Plane) : Plane :=
  match holdFirst (holdsOf p e pl) with
  | some k => (ctxsMissing p pl).foldl ctxWant (countWait p e.i k (k == 11))
  | none =>
    if !onTurn p e.i then p
    else if pl.gran then stopFault (clearBad p pl) e .granuleMismatch w []
    else
      match ctxFault p e pl with
      | some c => stopFault (clearBad p pl) e c.1 w c.2
      | none =>
        match pl.check with
        | some c => stopFault (countSkew p e pl c.1) e c.1 w c.2
        | none => issued p e pl (stored e.i pl run)

/-- The instruction of the command, once the fetched word spells it. -/
def attempt (p : Plane) (e : Env) (w : BitVec 128) (pl : Plan) (run : Plane → Env → Nat → Plane) : Plane :=
  if pl.ill then stopFault p e .illegalOp w []
  else if guardOff e.t.regs e.i then (if onTurn p e.i then advance (noteIssue p e) e plan0 else p)
  else
    match firstHead pl.head with
    | some c => stopFault p e c w (if c = .hqInvalid then pl.obj else [])
    | none => tryIssue p e w pl run

/-- An error of the port for the line that holds the instruction: FETCH_ERROR at the head check, and MEM_ERROR
with the line's address (R192, R300). -/
def fetchFault (p : Plane) (e : Env) : Plane :=
  let a := insnAddr p e.v e.t.regs.pc
  stopFault (memError p e.v e.s (some e.pi) (a - a % 128) 0 e.src) e .fetchError 0 []

/-- One issue attempt of the task slot's next instruction `c`. A word that spells another instruction leaves the
attempt without effect (log 9: DESIGN CHOICE, safe). -/
def issueWith (c : Instr) (i : Issue) (plan : Plane → Env → Plan) (run : Plane → Env → Nat → Plane) (p : Plane) : Plane :=
  match gate p i with
  | .nothing => p
  | .held k => countWait p i k false
  | .go pi =>
    let e := envOf p i pi
    let w := insnAt p e
    if ninsnOf p e.v ≤ e.t.regs.pc then stopFault p e .branchRange 0 []
    else if i.fetch = .portError then fetchFault p e
    else
      match fetched p e i with
      | none => stopFault p e .illegalOp w []
      | some d => if d = spelled c ∧ sameGuard i w.toNat then attempt p e w (plan p e) run else p

/-- The fetched word spells `c` (R166). -/
def spells (c : Instr) (i : Issue) (pi : Nat) (p : Plane) : Bool :=
  decide (i.fetch = .ok) && fetched p (envOf p i pi) i == some (spelled c)
    && sameGuard i (insnAt p (envOf p i pi)).toNat

/-- The conditions on state and operands under which an instruction issues. -/
def canIssue (c : Instr) (i : Issue) (plan : Plane → Env → Plan) (pi : Nat) (p : Plane) : Bool :=
  let e := envOf p i pi
  let pl := plan p e
  (gate p i == .go pi) && decide (e.t.regs.pc < ninsnOf p e.v) && spells c i pi p && !pl.ill
    && !guardOff e.t.regs i && (firstHead pl.head).isNone && (holdFirst (holdsOf p e pl)).isNone && onTurn p i
    && !pl.gran && (ctxFault p e pl).isNone && pl.check.isNone

/-! ## The meanings -/

def execSquareStall (v : Fin 64) (slot : Fin 16) (s : State) : Host.Outcome State Fault Refusal :=
  onPlane s (onReady (squareStall v.val slot.val))

def execMma (i : Issue) (f : MmaF) (s : State) : Host.Outcome State Fault Refusal :=
  onPlane s (issueWith (.mma i f) i (mmaPlan f) (mmaRun f))

def execLdw (i : Issue) (f : LdwF) (s : State) : Host.Outcome State Fault Refusal :=
  onPlane s (issueWith (.ldw i f) i (ldwPlan f) (ldwRun f))

def execConv (i : Issue) (f : ConvF) (s : State) : Host.Outcome State Fault Refusal :=
  onPlane s (issueWith (.conv i f) i (convPlan f) (convRun f))

def execEwiseMov (i : Issue) (f : EwiseF) (s : State) : Host.Outcome State Fault Refusal :=
  onPlane s (issueWith (.ewiseMov i f) i (ewisePlan true f) (ewiseRun true (fun a _ => a) f))

def execEwiseAdd (i : Issue) (f : EwiseF) (s : State) : Host.Outcome State Fault Refusal :=
  onPlane s (issueWith (.ewiseAdd i f) i (ewisePlan false f) (ewiseRun false xAdd f))

def execEwiseSub (i : Issue) (f : EwiseF) (s : State) : Host.Outcome State Fault Refusal :=
  onPlane s (issueWith (.ewiseSub i f) i (ewisePlan false f) (ewiseRun false xSub f))

def execEwiseMul (i : Issue) (f : EwiseF) (s : State) : Host.Outcome State Fault Refusal :=
  onPlane s (issueWith (.ewiseMul i f) i (ewisePlan false f) (ewiseRun false xMul f))

def execRedSum (i : Issue) (f : RedF) (s : State) : Host.Outcome State Fault Refusal :=
  onPlane s (issueWith (.redSum i f) i (sumPlan f) (sumRun f))

def execRedMax (i : Issue) (f : RedF) (s : State) : Host.Outcome State Fault Refusal :=
  onPlane s (issueWith (.redMax i f) i (winPlan f) (winRun true f))

def execRedMin (i : Issue) (f : RedF) (s : State) : Host.Outcome State Fault Refusal :=
  onPlane s (issueWith (.redMin i f) i (winPlan f) (winRun false f))

def execUpdDiagonal (i : Issue) (f : UpdF) (s : State) : Host.Outcome State Fault Refusal :=
  onPlane s (issueWith (.updDiagonal i f) i (updPlan ⟨1⟩ false f) (updRun ⟨1⟩ f))

def execUpdBlockMatrix (i : Issue) (f : UpdF) (k : BlockK) (s : State) : Host.Outcome State Fault Refusal :=
  onPlane s (issueWith (.updBlockMatrix i f k) i (updPlan (blockMode k) (k == .reserved) f) (updRun (blockMode k) f))

def execLoad (i : Issue) (f : XferF) (s : State) : Host.Outcome State Fault Refusal :=
  onPlane s (issueWith (.load i f) i (copyPlan .fill f) (loadRun f))

def execStore (i : Issue) (f : XferF) (s : State) : Host.Outcome State Fault Refusal :=
  onPlane s (issueWith (.store i f) i (copyPlan .read f) (storeRun f))

def execXload (i : Issue) (f : XferF) (s : State) : Host.Outcome State Fault Refusal :=
  onPlane s (issueWith (.xload i f) i (exactLoadPlan f) (xloadRun false f))

def execXstore (i : Issue) (f : XferF) (s : State) : Host.Outcome State Fault Refusal :=
  onPlane s (issueWith (.xstore i f) i (exactStorePlan true f) (xstoreRun false f))

def execXsend (i : Issue) (f : XferF) (s : State) : Host.Outcome State Fault Refusal :=
  onPlane s (issueWith (.xsend i f) i (exactStorePlan false f) (xsendRun f))

def execSquare (i : Issue) (f : XferF) (s : State) : Host.Outcome State Fault Refusal :=
  onPlane s (issueWith (.square i f) i (squarePlan f) (squareRun f))

def execStreamStart (i : Issue) (f : XferF) (s : State) : Host.Outcome State Fault Refusal :=
  onPlane s (issueWith (.streamStart i f) i (startPlan f) (startRun f))

def execRowInstall (i : Issue) (f : XferF) (s : State) : Host.Outcome State Fault Refusal :=
  onPlane s (issueWith (.rowInstall i f) i (installPlan f) (installRun f))

def execRowEvict (i : Issue) (f : XferF) (s : State) : Host.Outcome State Fault Refusal :=
  onPlane s (issueWith (.rowEvict i f) i (evictPlan f) (evictRun f))

def execXtload (i : Issue) (f : XferF) (s : State) : Host.Outcome State Fault Refusal :=
  onPlane s (issueWith (.xtload i f) i (exactLoadPlan f) (xloadRun true f))

def execXtstore (i : Issue) (f : XferF) (s : State) : Host.Outcome State Fault Refusal :=
  onPlane s (issueWith (.xtstore i f) i (exactStorePlan true f) (xstoreRun true f))

def execRsX (i : Issue) (f : XferF) (s : State) : Host.Outcome State Fault Refusal :=
  onPlane s (issueWith (.rsX i f) i (collPlan f) (collRun f))

def execArX (i : Issue) (f : XferF) (s : State) : Host.Outcome State Fault Refusal :=
  onPlane s (issueWith (.arX i f) i (collPlan f) (collRun f))

def execAg (i : Issue) (f : XferF) (s : State) : Host.Outcome State Fault Refusal :=
  onPlane s (issueWith (.ag i f) i (collPlan f) (collRun f))

def execBc (i : Issue) (f : XferF) (s : State) : Host.Outcome State Fault Refusal :=
  onPlane s (issueWith (.bc i f) i (collPlan f) (collRun f))

def execMaxr (i : Issue) (f : XferF) (s : State) : Host.Outcome State Fault Refusal :=
  onPlane s (issueWith (.maxr i f) i (collPlan f) (collRun f))

def execMinr (i : Issue) (f : XferF) (s : State) : Host.Outcome State Fault Refusal :=
  onPlane s (issueWith (.minr i f) i (collPlan f) (collRun f))

def execArC (i : Issue) (f : XferF) (s : State) : Host.Outcome State Fault Refusal :=
  onPlane s (issueWith (.arC i f) i (collPlan f) (collRun f))

def execPre (i : Issue) (f : XferF) (s : State) : Host.Outcome State Fault Refusal :=
  onPlane s (issueWith (.pre i f) i (collPlan f) (collRun f))

def execDigxSum (i : Issue) (f : XferF) (s : State) : Host.Outcome State Fault Refusal :=
  onPlane s (issueWith (.digxSum i f) i (collPlan f) (collRun f))

def execDigxAll (i : Issue) (f : XferF) (s : State) : Host.Outcome State Fault Refusal :=
  onPlane s (issueWith (.digxAll i f) i (collPlan f) (collRun f))

def execStatus (i : Issue) (f : XferF) (s : State) : Host.Outcome State Fault Refusal :=
  onPlane s (issueWith (.status i f) i (collPlan f) (collRun f))

def execMaxx (i : Issue) (f : XferF) (s : State) : Host.Outcome State Fault Refusal :=
  onPlane s (issueWith (.maxx i f) i (collPlan f) (collRun f))

/-- The table that a SEQ of the slot names. -/
def seqTable (p : Plane) (i : Issue) (f : RingF) : List Byte := memAt p (ringAddr (envOf p i 0) f) tableBytes

/-- A stop puts halves where nothing in flight reads or writes: a command with another place is none
(log 15: DESIGN CHOICE, safe). -/
def execRingSeq (i : Issue) (f : RingF) (pl : RingPlace) (s : State) : Host.Outcome State Fault Refusal :=
  onPlane s (fun p =>
    if seqOk p (seqTable p i f) (lagOf f) && !placesFree p i.veng.val pl (seqTable p i f) then p
    else issueWith (.ringSeq i f pl) i (seqPlan f) (seqRun f pl) p)

def execRingTurn (i : Issue) (f : RingF) (pl : RingPlace) (s : State) : Host.Outcome State Fault Refusal :=
  onPlane s (fun p =>
    if ((getV p i.veng.val).ring.map (fun q => turnReady q && !placesFree p i.veng.val pl q.table)).getD false then p
    else issueWith (.ringTurn i f pl) i turnPlan (turnRun f pl) p)

def execRingBufferPass (v : Fin 64) (odd : Bool) (s : State) : Host.Outcome State Fault Refusal :=
  onPlane s (onReady (fun p => ringPass v.val odd (turning p v.val) p))

def execRingSend (i : Issue) (f : RingF) (s : State) : Host.Outcome State Fault Refusal :=
  onPlane s (issueWith (.ringSend i f) i (sendPlan f) (sendRun false f))

def execRingRecv (i : Issue) (f : RingF) (s : State) : Host.Outcome State Fault Refusal :=
  onPlane s (issueWith (.ringRecv i f) i (recvPlan f) (recvRun f))

def execRingMcast (i : Issue) (f : RingF) (s : State) : Host.Outcome State Fault Refusal :=
  onPlane s (issueWith (.ringMcast i f) i (sendPlan f) (sendRun true f))

def execHqPut (i : Issue) (f : HqF) (s : State) : Host.Outcome State Fault Refusal :=
  onPlane s (issueWith (.hqPut i f) i (putPlan f) (putRun f))

def execHqGet (i : Issue) (f : HqF) (s : State) : Host.Outcome State Fault Refusal :=
  onPlane s (issueWith (.hqGet i f) i (getPlan f) (getRun f))

def execCrossArrive (i : Issue) (cid : BitVec 6) (mreg : BitVec 5) (s : State) : Host.Outcome State Fault Refusal :=
  onPlane s (issueWith (.crossArrive i cid mreg) i (arrivePlan cid mreg) (arriveRun cid mreg))

def execCrossWait (i : Issue) (cid : BitVec 6) (s : State) : Host.Outcome State Fault Refusal :=
  onPlane s (issueWith (.crossWait i cid) i (waitPlan cid) (fun p e _ => passWait p cid.toNat e.v))

def execSwap (i : Issue) (s : State) : Host.Outcome State Fault Refusal := onPlane s (issueWith (.swap i) i swapPlan swapRun)

def execWait (i : Issue) (tmask : BitVec 16) (s : State) : Host.Outcome State Fault Refusal :=
  onPlane s (issueWith (.wait i tmask) i (tagPlan tmask) runNone)

def execCtxSnapshot (i : Issue) (f : CtxF) (s : State) : Host.Outcome State Fault Refusal :=
  onPlane s (issueWith (.ctxSnapshot i f) i (ctxPlan true f) (ctxRun true f))

def execCtxReset (i : Issue) (f : CtxF) (s : State) : Host.Outcome State Fault Refusal :=
  onPlane s (issueWith (.ctxReset i f) i (ctxPlan false f) (ctxRun false f))

def execSealClose (i : Issue) (dreg : BitVec 5) (s : State) : Host.Outcome State Fault Refusal :=
  onPlane s (issueWith (.sealClose i dreg) i closePlan (closeRun dreg))

def execSealAwait (i : Issue) (s : State) : Host.Outcome State Fault Refusal := onPlane s (issueWith (.sealAwait i) i awaitPlan runNone)

def execBr (i : Issue) (f : BrF) (s : State) : Host.Outcome State Fault Refusal :=
  onPlane s (issueWith (.br i f) i (brPlan f) runNone)

def execLoop (i : Issue) (f : LoopF) (s : State) : Host.Outcome State Fault Refusal :=
  onPlane s (issueWith (.loop i f) i (loopPlan f) (loopRun f))

def execAluAdd (i : Issue) (f : AluF) (s : State) : Host.Outcome State Fault Refusal :=
  onPlane s (issueWith (.aluAdd i f) i planNone (aluRun (· + ·) f))

def execAluSub (i : Issue) (f : AluF) (s : State) : Host.Outcome State Fault Refusal :=
  onPlane s (issueWith (.aluSub i f) i planNone (aluRun (· - ·) f))

def execAluMul (i : Issue) (f : AluF) (s : State) : Host.Outcome State Fault Refusal :=
  onPlane s (issueWith (.aluMul i f) i planNone (aluRun (· * ·) f))

def execAluAnd (i : Issue) (f : AluF) (s : State) : Host.Outcome State Fault Refusal :=
  onPlane s (issueWith (.aluAnd i f) i planNone (aluRun (· &&& ·) f))

def execAluOr (i : Issue) (f : AluF) (s : State) : Host.Outcome State Fault Refusal :=
  onPlane s (issueWith (.aluOr i f) i planNone (aluRun (· ||| ·) f))

def execAluXor (i : Issue) (f : AluF) (s : State) : Host.Outcome State Fault Refusal :=
  onPlane s (issueWith (.aluXor i f) i planNone (aluRun (· ^^^ ·) f))

def execAluShl (i : Issue) (f : AluF) (s : State) : Host.Outcome State Fault Refusal :=
  onPlane s (issueWith (.aluShl i f) i planNone (aluRun aluShlV f))

def execAluShr (i : Issue) (f : AluF) (s : State) : Host.Outcome State Fault Refusal :=
  onPlane s (issueWith (.aluShr i f) i planNone (aluRun aluShrV f))

def execAluSar (i : Issue) (f : AluF) (s : State) : Host.Outcome State Fault Refusal :=
  onPlane s (issueWith (.aluSar i f) i planNone (aluRun aluSarV f))

def execAluMin (i : Issue) (f : AluF) (s : State) : Host.Outcome State Fault Refusal :=
  onPlane s (issueWith (.aluMin i f) i planNone (aluRun aluMinV f))

def execAluMax (i : Issue) (f : AluF) (s : State) : Host.Outcome State Fault Refusal :=
  onPlane s (issueWith (.aluMax i f) i planNone (aluRun aluMaxV f))

def execAluMinu (i : Issue) (f : AluF) (s : State) : Host.Outcome State Fault Refusal :=
  onPlane s (issueWith (.aluMinu i f) i planNone (aluRun aluMinuV f))

def execAluMaxu (i : Issue) (f : AluF) (s : State) : Host.Outcome State Fault Refusal :=
  onPlane s (issueWith (.aluMaxu i f) i planNone (aluRun aluMaxuV f))

def execAluInshi (i : Issue) (f : AluF) (s : State) : Host.Outcome State Fault Refusal :=
  onPlane s (issueWith (.aluInshi i f) i planNone (aluRun aluInshiV f))

def execAluRdspec (i : Issue) (f : AluF) (s : State) : Host.Outcome State Fault Refusal :=
  onPlane s (issueWith (.aluRdspec i f) i (rdspecPlan f) (rdspecRun f))

def execAluHnd (i : Issue) (f : AluF) (s : State) : Host.Outcome State Fault Refusal :=
  onPlane s (issueWith (.aluHnd i f) i planNone (aluRun (fun _ b => aluHndV b) f))

def execSetp (i : Issue) (f : SetpF) (s : State) : Host.Outcome State Fault Refusal :=
  onPlane s (issueWith (.setp i f) i (setpPlan f) (setpRun f))

/-- The round-robin position of its priority makes the task last (R185). -/
def execYield (i : Issue) (s : State) : Host.Outcome State Fault Refusal := onPlane s (issueWith (.yield i) i planNone runNone)

/-- The slot is FREE once what it issued has retired (R185). -/
def execHalt (i : Issue) (s : State) : Host.Outcome State Fault Refusal := onPlaneS s (issueWith (.halt i) i haltPlan haltRun)

end Sys2Proof.Machine
end

