-- ==== Sys2Proof/Machine/Events.lean ====
section
/-! DEFINITION. Events of the Plane: issue end, arrivals, packets, paging, epochs. -/

namespace Sys2Proof.Machine

/-- INSTRUCTION_COMPLETE (R189). -/
def execInstructionComplete (id : Nat) (ev : List ArrayEvent) (s : State) : Host.Outcome State Fault Refusal :=
  onPlaneS s (instructionComplete id ev)

/-- CROSS_ARRIVE_COMPLETE (R156). -/
def execCrossArriveComplete (cid veng : Fin 64) (s : State) : Host.Outcome State Fault Refusal :=
  onPlaneS s (arriveDone cid.val veng.val)

/-- PACKET_LANDING (R229). -/
def execPacketLanding (port : Fin 16) (k : Packet) (rx : RxFault) (ev : List ArrayEvent) (errs : List StoreErr)
    (s : State) : Host.Outcome State Fault Refusal :=
  onPlaneS s (landPacket port.val k rx ev errs)

/-- ACK_RECEIVE (R230). -/
def execAckReceive (port : Fin 16) (k : Packet) (rx : RxFault) (s : State) : Host.Outcome State Fault Refusal :=
  onPlaneS s (ackReceive port.val k rx)

/-- COLL_TIMEOUT (R230). -/
def execCollTimeout (sent : Nat) (s : State) : Host.Outcome State Fault Refusal := onPlaneS s (collTimeout sent)

/-- SQUARE_CLOSE (R106, R231). -/
def execSquareClose (v : Fin 64) (q : Fin 32) (ev : List ArrayEvent) (s : State) :
    Host.Outcome State Fault Refusal :=
  onPlaneS s (squareClose v.val q.val ev)

/-- PAGE_IN (R78, R80). -/
def execPageIn (ctx : BitVec 24) (s : State) : Host.Outcome State Fault Refusal :=
  onPlaneS s (fun p => pageInEnd p ctx.toNat)

/-- GROUP_SPILL (R97). -/
def execGroupSpill (v : Fin 64) (g : Fin 80) (ev : List ArrayEvent) (s : State) : Host.Outcome State Fault Refusal :=
  onPlaneS s (groupSpill v.val g.val ev)

/-- GROUP_RESTORE (R97). -/
def execGroupRestore (v : Fin 64) (g : Fin 80) (fails : Fails) (s : State) : Host.Outcome State Fault Refusal :=
  onPlaneS s (groupRestore v.val g.val fails)

/-- IMPLICIT_CLOSE: steps 2 and 3 of R235. -/
def execImplicitClose (part : Fin 8) (s : State) : Host.Outcome State Fault Refusal :=
  onPlaneS s (onReady (implicitClose part.val))

/-- CROSSING_RELEASE (R156, R236). -/
def execCrossingRelease (c : CrossRef) (s : State) : Host.Outcome State Fault Refusal :=
  onPlaneS s (onReady (match c with
    | .prog cid => crossRelease cid.val
    | .seal part => sealRelease part.val))

/-- MILESTONE_FORM (R238). -/
def execMilestoneForm (part : Fin 8) (s : State) : Host.Outcome State Fault Refusal :=
  onPlaneS s (onReady (milestoneForm part.val))

/-- SEAL_SUMMARY_MERGE (R245). -/
def execSealSummaryMerge (part : Fin 8) (s : State) : Host.Outcome State Fault Refusal :=
  onPlaneS s (onReady (summaryMerge part.val))

/-- SEAL_VERDICT (R245, R248, R252). -/
def execSealVerdict (part : Fin 8) (verified : Bool) (s : State) : Host.Outcome State Fault Refusal :=
  onPlaneS s (onReady (sealVerdict part.val verified))

/-- SEAL_STALL (R246). -/
def execSealStall (part : Fin 8) (s : State) : Host.Outcome State Fault Refusal := onPlaneS s (onReady (sealStall part.val))

/-- RESTART_READY (R254). -/
def execRestartReady (gslot : Fin 16) (rank : BitVec 20) (s : State) : Host.Outcome State Fault Refusal :=
  onPlaneS s (onReady (restartReady gslot.val rank.toNat))

/-- RESTART_STALL (R254). -/
def execRestartStall (part : Fin 8) (s : State) : Host.Outcome State Fault Refusal :=
  onPlaneS s (onReady (restartStall part.val))

end Sys2Proof.Machine
end

