-- ==== Sys2Proof/Machine/Program.lean ====
section
/-! DEFINITION. PROGRAM_LOAD (R136, R147, R284), TASK_START and TASK_STOP (R165, R285, R361), PEER_UPDATE
(R215, R217, R287). -/

namespace Sys2Proof.Machine

/-! ## PROGRAM_LOAD -/

def progRow : VerbRow := ⟨0x20, anyReq, false, .no⟩

/-- A program image header (R284). -/
structure ProgHdr where
  ver : Nat
  ninsn : Nat
  cfg : Nat
  nrange : Nat
  ranges : List (Nat × Nat)
  claims : Nat

def rangeAt (p : Plane) (a : Nat) : Nat × Nat :=
  let w := memNatAt p a 8
  (bits w 23 0, bits w 55 32)

def progHdr (p : Plane) (a : Nat) : ProgHdr :=
  { ver := memNatAt p a 2
    ninsn := memNatAt p (a + 4) 4
    cfg := memNatAt p (a + 8) 4
    nrange := memNatAt p (a + 12) 4
    ranges := (List.range (min (memNatAt p (a + 12) 4) 8)).map (fun k => rangeAt p (a + 16 + 8 * k))
    claims := memNatAt p (a + 80) 32 }

/-- RES, RING and POOL leave 64 KiB of each half swapping (R136). -/
def bufCfgOk (w : Nat) : Bool := decide (bits w 7 0 + bits w 15 8 + bits w 23 16 ≤ 47)

def claimed (h : ProgHdr) : List Nat := upTo 256 (fun q => bit h.claims q)

/-- Check 3: a virtual engine outside the partition, or a queue that another partition holds. -/
def progForeign (p : Plane) (i : Nat) (vs qs : List Nat) : Bool :=
  vs.any (fun v => partOf p v != some i) || qs.any (fun q => (getQ p q).en && (getQ p q).part != i)

def progBusy (p : Plane) (vs : List Nat) : Bool :=
  vs.any (fun v => (getV p v).tasks.any (fun t => t.2.st != .free))

def loadProg (c : Call) (a : Nat) (h : ProgHdr) (vs : List Nat) (p : Plane) : Plane :=
  let g : Prog := ⟨a, h.ninsn, h.ranges, BitVec.ofNat 256 h.claims, c.s⟩
  let p := (claimed h).foldl (fun p q =>
    setQ p q { getQ p q with
      part := c.i
      en := true
      session := c.s }) p
  vs.foldl (fun p v => modV p v (fun e => { e with
    prog := some g
    bufCfg := BitVec.ofNat 32 (h.cfg % 2 ^ 24) })) p

/-- (log 105: DEDUCED, unsafe) -/
def progRun (c : Call) (p : Plane) : Plane :=
  let a := c.arg 1 51 0
  let vs := upTo 64 (fun v => bit (c.q.arg 0) v)
  if !c.accessOk p a 128 then c.readFault a 128 p
  else
    let h := progHdr p a
    if h.ver ≠ 1 ∨ h.ninsn = 0 ∨ 2 ^ 20 < h.ninsn ∨ 8 < h.nrange then c.err stImgInvalid p
    else if !bufCfgOk h.cfg then c.err stBufCfgInvalid p
    else if progForeign p c.i vs (claimed h) then c.err stNotOwner p
    else if progBusy p vs then c.err stBusy p
    else c.ok [] (loadProg c a h vs p)

def execProgramLoad (m : Fin 64) (fails : Fails) (s : State) : Host.Outcome State Fault Refusal :=
  onPlaneS s (runVerbMem m.val progRow fails progRun)

/-! ## TASK_START, TASK_STOP -/

def startRow : VerbRow := ⟨0x21, anyReq, false, .no⟩

/-- While the host is not ACTIVE the start latches an enable and waits (R361). (log 106: DESIGN CHOICE, unsafe) -/
def taskStartRun (c : Call) (p : Plane) : Plane :=
  match startCheck c.q.w c.i p with
  | .error st => c.err st p
  | .ok _ =>
    let h := homePort p (startVeng c.q.w)
    if (getPhys p h).power = .active then
      let r := startTask c.q.w c.s c.i p
      answer r.1 c.m c.q r.2
    else c.wait (.engineActive c.q.w c.s c.i) (if isFenced p h then p else enable p h)

def execTaskStart (m : Fin 64) (s : State) : Host.Outcome State Fault Refusal :=
  onPlaneS s (runVerb m.val startRow taskStartRun)

def stopRow : VerbRow := ⟨0x22, anyReq, false, .no⟩

def taskStopRun (c : Call) (p : Plane) : Plane :=
  let v := c.arg 0 5 0
  let s := c.arg 0 11 8
  let t := getT p v s
  if partOf p v ≠ some c.i then c.err stNotOwner p
  else if t.st = .free then c.ok [] p
  else if t.session ≠ c.s then c.err stNotOwner p
  else c.wait (.slotFree v s) (stopTask p v s)

def execTaskStop (m : Fin 64) (s : State) : Host.Outcome State Fault Refusal :=
  onPlaneS s (runVerb m.val stopRow taskStopRun)

/-! ## PEER_UPDATE -/

def peerRow : VerbRow := ⟨0x30, anyReq, false, .no⟩

/-- The changes of STATE that R217 lets a host stage. -/
def stageable (old next : Nat) : Bool :=
  match old, next with
  | 0, 1 => true
  | 1, 2 => true
  | 2, 3 => true
  | 1, 0 => true
  | 2, 0 => true
  | 3, 0 => true
  | _, _ => false

/-- Another entry that is or will be in the group shares the RANK, or above level 0 the GIDX (R215). -/
def peerTwin (t : Sparse (BitVec 256)) (lv idx : Nat) (e : BitVec 256) : Bool :=
  t.any (fun x => x.1 != idx && (peerState x.2 != 0 || (peerNv x.2 && peerNext x.2 != 0))
    && (peerRank x.2 == peerRank e || (decide (0 < lv) && peerGidx x.2 == peerGidx e)))

/-- One record of the list on a slot's peer table; none when it breaks a rule. -/
def peerRecord (lv : Nat) (t : Sparse (BitVec 256)) (r : Nat) : Option (Sparse (BitVec 256)) :=
  let idx := bits r 11 0
  let e := spGetD t idx 0
  match bits r 15 12 with
  | 0 =>
    if peerState e != 0 || peerNv e || (lv == 0 && bits r 63 52 != 0) then none
    else some (spPut t idx (setFld (setFld (setFld e 19 0 (bits r 51 32)) 31 20 (bits r 63 52)) 127 96 (bits r 95 64)))
  | 1 =>
    if !stageable (peerState e) (bits r 17 16) || (peerState e == 0 && peerTwin t lv idx e) then none
    else some (spPut t idx (setFld (setFld e 35 34 (bits r 17 16)) 36 36 1))
  | 2 => some (spPut t idx (setFld e 127 96 (bits r 95 64)))
  | 3 => some (spPut t idx (setFld e 36 36 0))
  | _ => none

/-- The whole list, or the index of the first record that fails. -/
def peerList (lv : Nat) : Nat → List Nat → Sparse (BitVec 256) → Except Nat (Sparse (BitVec 256))
  | _, [], t => .ok t
  | k, r :: l, t =>
    match peerRecord lv t r with
    | none => .error k
    | some t => peerList lv (k + 1) l t

/-- No two entries break R215 at a level. -/
def peersApart (lv : Nat) (t : Sparse (BitVec 256)) : Bool :=
  t.all (fun x => (peerState x.2 == 0 && !(peerNv x.2 && peerNext x.2 != 0)) || !peerTwin t lv x.1 x.2)

/-- The entries of a slot's table, by index. -/
def peerTable (p : Plane) (g : Nat) : Sparse (BitVec 256) :=
  (p.peers.filter (fun e => e.1 / 4096 == g)).map (fun e => (e.1 % 4096, e.2))

def putPeers (p : Plane) (g : Nat) (t : Sparse (BitVec 256)) : Plane :=
  t.foldr (fun e p => setPeer p g e.1 e.2) p

/-- The descriptor that W2 gives; the counters and MEPOCH stay. -/
def descOf (p : Plane) (i g w : Nat) : BitVec 256 :=
  let x := getSlot p g
  let x := setFld (setFld x 23 0 (bits w 23 0)) 59 58 (bits w 25 24)
  let x := setFld (setFld x 57 57 (bits w 26 26)) 56 53 (bits w 30 27)
  setFld (setFld (setFld x 60 60 (bits w 31 31)) 86 67 (bits w 51 32)) 63 61 i

/-- An uncommitted epoch has issued a COLL on the slot. -/
def collIssued (p : Plane) (i g : Nat) : Bool :=
  (getP p i).epochs.any (fun e => decide ((getP p i).committed < e.n) && e.colls.any (fun k => k.gslot == g))

/-- The descriptor may be written: EN is 0, or the write clears it. -/
def descFree (p : Plane) (i g w : Nat) : Bool :=
  !gEn (getSlot p g) || (!bit w 31 && !collIssued p i g)

/-- (log 108: DESIGN CHOICE, unsafe) -/
def peerRun (c : Call) (p : Plane) : Plane :=
  let g := c.arg 0 3 0
  let n := c.arg 0 31 16
  let a := c.arg 1 51 0
  let w := c.q.arg 2
  let desc := c.flag 0 4
  let done := (getP p c.i).committed
  if gEn (getSlot p g) && gPart (getSlot p g) != c.i then c.err stNotOwner p
  else if desc && bits w 25 24 == 3 then c.err stBadArg p
  else if desc && !descFree p c.i g w then c.err stBusy p
  else if !c.accessOk p a (16 * n) then c.readFault a (16 * n) p
  else
    let x := if desc then descOf p c.i g w else getSlot p g
    let rs := (List.range n).map (fun k => memNatAt p (a + 16 * k) 16)
    match peerList (gLevel x) 0 rs (peerTable p g) with
    | .error k => answer p c.m c.q ⟨stPeerInvalid, [done, k]⟩
    | .ok t =>
      if !peersApart (gLevel x) t then answer p c.m c.q ⟨stPeerInvalid, [done, 0]⟩
      else c.ok [done] (recount (putPeers (setSlot p g x) g t) g)

def execPeerUpdate (m : Fin 64) (fails : Fails) (s : State) : Host.Outcome State Fault Refusal :=
  onPlaneS s (runVerbMem m.val peerRow fails peerRun)

end Sys2Proof.Machine
end

