-- ==== Sys2Proof/Machine/Policy.lean ====
section
/-! DEFINITION. SEAL_QUERY (R251), COMMIT_POLICY (R243, R246, R247, R250, R255, R288), REPLAY_SEGMENT (R289,
R290). -/

namespace Sys2Proof.Machine

/-! ## SEAL_QUERY -/

def queryRow : VerbRow := ⟨0x31, anyReq, false, .no⟩

/-- (log 51: DESIGN CHOICE, unsafe) -/
def queryRun (c : Call) (p : Plane) : Plane :=
  let x := getP p c.i
  let id := c.arg 0 23 0
  if c.flag 0 24 then c.ok [0, x.committed, epochNo (running p c.i)] p
  else
    match definedCtx p id with
    | none => c.err stBadArg p
    | some k =>
      if ctxPart k ≠ c.i then c.err stNotOwner p
      else if ctxIsUpd k then c.err stBadArg p
      else
        let l := onLists p c.i id
        let tent := if !x.policy.hold && !l.isEmpty then 2 else 0
        c.ok [(if ctxVer k then 1 else 0) + tent, x.committed, epochNo (running p c.i), l.headD 0] p

def execSealQuery (m : Fin 64) (s : State) : Host.Outcome State Fault Refusal :=
  onPlaneS s (runVerb m.val queryRow queryRun)

/-! ## COMMIT_POLICY -/

def policyOp (n : Nat) (q : Req) : Bool := bits (q.arg 0) 2 0 == n

/-- An epoch that has begun and has not committed. -/
def uncommitted (x : Part) : Bool :=
  x.epochs.any (fun e => decide (x.committed < e.n) && (e.issued || e.implicitClose || e.phase != .running))

def policySetRow : VerbRow := ⟨0x32, fun q => policyOp 0 q || decide (5 ≤ bits (q.arg 0) 2 0), false, .no⟩

/-- The slot or queue belongs to another partition (R280). -/
def slotForeign (p : Plane) (i : Nat) (g : Option Nat) : Bool :=
  match g with
  | none => false
  | some g => gEn (getSlot p g) && gPart (getSlot p g) != i

def policySetRun (c : Call) (p : Plane) : Plane :=
  let sg := if c.flag 0 16 then some (c.arg 0 15 12) else none
  let rg := if c.flag 0 24 then some (c.arg 0 23 20) else none
  let hq := c.arg 0 39 32
  if 5 ≤ c.arg 0 2 0 then c.err stBadArg p
  else if uncommitted (getP p c.i) then c.err stEpochBusy p
  else if slotForeign p c.i sg || slotForeign p c.i rg
      || (c.flag 0 8 && (getQ p hq).en && (getQ p hq).part != c.i) then c.err stNotOwner p
  else c.ok [(getP p c.i).committed] (modP p c.i (fun x => { x with policy := ⟨c.flag 0 8, sg, rg, hq⟩ }))

def execCommitPolicySet (m : Fin 64) (s : State) : Host.Outcome State Fault Refusal :=
  onPlaneS s (runVerb m.val policySetRow policySetRun)

def policyEpoch (c : Call) : Nat := c.arg 1 47 0

/-- CONTINUE: the withheld summary goes out; without a seal tree there is none to send (R247). (log 109: DEDUCED, unsafe) -/
def policyContinueRun (c : Call) (p : Plane) : Plane :=
  let n := policyEpoch c
  let x := getP p c.i
  if n ≤ x.committed ∨ (epGet x n).phase ≠ .formed ∨ (epGet x n).hostHold = false then c.err stEpochUnknown p
  else
    let p := modEp p c.i n (fun e => { e with hostHold := false })
    if dutyHw p c.i 3 || x.replay.isSome then sealNext (c.wait (.summary c.i n) p) c.i else c.ok [n] p

def policyContinueRow : VerbRow := ⟨0x32, policyOp 1, false, .no⟩

def execCommitPolicyContinue (m : Fin 64) (s : State) : Host.Outcome State Fault Refusal :=
  onPlaneS s (runVerb m.val policyContinueRow policyContinueRun)

/-- The latest epoch that a rollback could name. -/
def latestEpoch (p : Plane) (i : Nat) : Nat := (getP p i).epochs.foldl (fun n e => max n e.n) (running p i)

def policyRollbackRun (c : Call) (p : Plane) : Plane :=
  let n := policyEpoch c
  let x := getP p c.i
  if n ≤ x.committed ∨ latestEpoch p c.i < n then c.err stEpochUnknown p
  else if ((x.rollback).map Rollback.restored).getD false then c.ok [n] p
  else rollbackNow (c.wait (.restored c.i n) p) c.i 1 false

def policyRollbackRow : VerbRow := ⟨0x32, policyOp 2, false, .no⟩

def execCommitPolicyRollback (m : Fin 64) (s : State) : Host.Outcome State Fault Refusal :=
  onPlaneS s (runVerb m.val policyRollbackRow policyRollbackRun)

/-- COMMIT decides a formed Milestone in the host-assisted mode of the seal decision (R247). -/
def policyCommitRun (c : Call) (p : Plane) : Plane :=
  let n := policyEpoch c
  let x := getP p c.i
  if n ≠ x.committed + 1 ∨ dutyHw p c.i 3 = true ∨ (epGet x n).phase ≠ .formed ∨ (epGet x n).taken = true
      ∨ x.rollback.isSome then c.err stEpochUnknown p
  else takeCommit c.i n (c.wait (.committed c.i n) p)

def policyCommitRow : VerbRow := ⟨0x32, policyOp 3, false, .no⟩

def execCommitPolicyCommit (m : Fin 64) (s : State) : Host.Outcome State Fault Refusal :=
  onPlaneS s (runVerb m.val policyCommitRow policyCommitRun)

def resumeTask (t : Task) : Task := if t.st = .stopped then { t with st := .active } else t

/-- RESUME after REPLAY_EXHAUSTED, PART_DOWN or a host-assisted fence (R255, R261, R294). -/
def policyResumeRun (c : Call) (p : Plane) : Plane :=
  if (getP p c.i).halted.isNone then c.err stEpochUnknown p
  else
    let p := modP p c.i (fun x => { x with
      halted := none
      rollbacks := 0 })
    let p := (partVengs p c.i).foldl (fun p v => modV p v (fun e => { e with
      tasks := e.tasks.map (fun t => (t.1, resumeTask t.2)) })) p
    c.ok [epochNo (running p c.i)] p

def policyResumeRow : VerbRow := ⟨0x32, policyOp 4, false, .no⟩

def execCommitPolicyResume (m : Fin 64) (s : State) : Host.Outcome State Fault Refusal :=
  onPlaneS s (runVerb m.val policyResumeRow policyResumeRun)

/-! ## REPLAY_SEGMENT -/

def replayRow : VerbRow := ⟨0x33, anyReq, false, .no⟩

/-- MAXE_TAG, or RAN and RAN_TAG, to 0 (R289 step 1). -/
def clearTag (c : Cx) : Cx := if ctxIsUpd c then setFld (setFld c 416 416 0) 399 352 0 else setFld c 879 832 0

def clearTags (p : Plane) (i : Nat) : Plane :=
  (partCtxs p i).foldl (fun p id =>
    match ctxAny p id with
    | some c => ctxPutAny p id (clearTag c)
    | none => p) p

/-- Disputed records lie one after another, each a header and its body. -/
def disputedAt (p : Plane) : Nat → Nat → List (List Byte)
  | 0, _ => []
  | k + 1, a =>
    let n := memNatAt p (a + 4) 4
    memAt p a (256 + n) :: disputedAt p k (a + 256 + n)

/-- The first read of the disputed records that fails, as (address, bytes). -/
def disputedFault (c : Call) (p : Plane) : Nat → Nat → Option (Nat × Nat)
  | 0, _ => none
  | k + 1, a =>
    let n := 256 + memNatAt p (a + 4) 4
    if !c.accessOk p a 256 then some (a, 256)
    else if !c.accessOk p (a + 256) (n - 256) then some (a + 256, n - 256)
    else disputedFault c p k (a + n)

/-- The argument words of task record k. -/
def taskWords (p : Plane) (a k : Nat) : List Nat := (List.range 7).map (fun j => memNatAt p (a + 64 * k + 8 + 8 * j) 8)

/-- Start the tasks of the list; none when a record is refused. -/
def startAll (s i : Nat) : List (List Nat) → Plane → Option Plane
  | [], p => some p
  | w :: l, p =>
    let r := startTask w s i p
    if r.2.status = 0 then startAll s i l r.1 else none

def replayBusy (p : Plane) (i : Nat) : Bool := !allFree p i || uncommitted (getP p i) || (getP p i).rollback.isSome

/-- Steps 1 and 2: FIRST − 1 is the committed state. (log 95: DESIGN CHOICE, unsafe) -/
def replayPrepare (c : Call) (first last ndisp : Nat) (p : Plane) : Plane :=
  let ds := disputedAt p ndisp (c.arg 6 51 0)
  let p := clearTags p c.i
  let p := modP p c.i (fun x => { x with
    lastClosed := first - 1
    committed := first - 1
    epochs := []
    journal := []
    starts := []
    snaps := []
    rollbacks := 0
    halted := none
    replay := some ⟨c.m, first, last, c.arg 2 51 0, c.arg 3 51 0, 0, ds, 0, 0, 0, x.policy, none⟩ })
  putSnap p c.i (takeSnap p c.i (first - 1))

/-- (log 110: DESIGN CHOICE, unsafe) -/
def replayRun (c : Call) (p : Plane) : Plane :=
  let first := c.arg 0 47 0
  let last := c.arg 1 47 0
  let n := c.arg 5 15 0
  let k := c.arg 5 19 16
  let a := c.arg 4 51 0
  if first = 0 ∨ last < first ∨ first + 63 < last ∨ 8 < k then c.err stBadArg p
  else if replayBusy p c.i then c.err stBusy p
  else if !c.accessOk p a (64 * n) then c.readFault a (64 * n) p
  else
    match disputedFault c p k (c.arg 6 51 0) with
    | some x => c.readFault x.1 x.2 p
    | none =>
    match startAll c.s c.i ((List.range n).map (taskWords p a)) (replayPrepare c first last k p) with
    | none => c.err stBadArg p
    | some p => c.wait (.replay c.i) p

def execReplaySegment (m : Fin 64) (fails : Fails) (s : State) : Host.Outcome State Fault Refusal :=
  onPlaneS s (runVerbMem m.val replayRow fails replayRun)

end Sys2Proof.Machine
end

