-- ==== Sys2Proof/Machine/Fencing.lean ====
section
/-! DEFINITION. FENCE_ENGINE, UNFENCE_ENGINE, SCAN_ENGINE (R291, R344 to R347, R355), sequencer faults (R260),
and the engine power states (R359 to R362). -/

namespace Sys2Proof.Machine

/-! ## FENCE_ENGINE (R115, R291) -/

def fenceRow : VerbRow := ⟨0x40, anyReq, true, .no⟩

/-- Virtual engines that an engine hosts, or will host once they have moved. -/
def boundTo (p : Plane) (e : Nat) : List Nat :=
  upTo 64 (fun v => (match (getV p v).moveTo with
    | some h => h
    | none => (getV p v).host) == e)

/-- A host for each; none when one of them finds no room. -/
def planMoves (i : Nat) : List Nat → Plane → Option Plane
  | [], p => some p
  | v :: l, p =>
    match pickHost p i with
    | none => none
    | some h => planMoves i l (modV p v (fun x => { x with moveTo := some h }))

/-- An engine outside every partition hosts no task: nothing moves. -/
def movesOff (p : Plane) (e : Nat) : Option Plane :=
  match partOfRegion p (e / 8) with
  | none => some p
  | some i => planMoves i (boundTo p e) p

def anyScan (p : Plane) : Bool := p.phys.any (fun x => x.2.scanning)

/-- (log 111: DESIGN CHOICE, unsafe) -/
def fenceRun (c : Call) (p : Plane) : Plane :=
  let e := c.arg 0 5 0
  if (getPhys p e).scanning then c.err stBusy p
  else if isFenced p e then
    match movesOff p e with
    | none => c.err stFenceLimit p
    | some q => c.wait (.moves e 1) q
  else
    match movesOff (markFence p e (some p.order) 0) e with
    | none => c.err stFenceLimit p
    | some q =>
      let q := c.wait (.fence e p.order) q
      if 4 ≤ fencedIn q (e / 8) then quarantine q (e / 8) else q

def execFenceEngine (m : Fin 64) (s : State) : Host.Outcome State Fault Refusal :=
  onPlaneS s (runVerb m.val fenceRow fenceRun)

/-! ## UNFENCE_ENGINE -/

def unfenceRow : VerbRow := ⟨0x41, anyReq, true, .no⟩

/-- Back in service: it wakes, and its own virtual engine comes home. -/
def comeBack (p : Plane) (e : Nat) : Plane :=
  if isFenced p e then p
  else
    let p := enable p e
    if (getV p e).host = e then p else modV p e (fun x => { x with moveTo := some e })

def unfenceRun (c : Call) (p : Plane) : Plane :=
  let e := c.arg 0 5 0
  let x := getPhys p e
  if isFactory p e then c.err stFactoryFenced p
  else if !isFenced p e then c.err stNotFenced p
  else if x.scanning then c.err stBusy p
  else if !x.scanPassed then c.err stScanRequired p
  else
    let q := setPhys p e { x with
      fieldFence := false
      scanPassed := false }
    comeBack (c.wait (.nvm p.order) (writeMask q e false (some p.order) 0)) e

def execUnfenceEngine (m : Fin 64) (s : State) : Host.Outcome State Fault Refusal :=
  onPlaneS s (runVerb m.val unfenceRow unfenceRun)

/-! ## SCAN_ENGINE -/

def scanRow : VerbRow := ⟨0x42, anyReq, true, .no⟩

/-- The scan begins; a GATED engine wakes for it (R346). -/
def scanRun (c : Call) (p : Plane) : Plane :=
  let e := c.arg 0 5 0
  if !isFenced p e then c.err stNotFenced p
  else if anyScan p || !(boundTo p e).isEmpty || !(hostedOn p e).isEmpty then c.err stBusy p
  else enable (modPhys (c.wait (.scan e) p) e (fun x => { x with scanning := true })) e

def execScanEngine (m : Fin 64) (s : State) : Host.Outcome State Fault Refusal :=
  onPlaneS s (runVerb m.val scanRow scanRun)

/-- The verb of a scan, by mailbox; it now waits for the record. -/
def scanWaits (p : Plane) (e key : Nat) : Plane :=
  (spKeys p.mbx).foldl (fun p m =>
    match (getM p m).exec with
    | some x =>
      if x.waits = .scan e then modM p m (fun y => { y with exec := some { x with waits := .nvm key } }) else p
    | none => p) p

/-- NVM offset of the active pattern set (R338, R345). -/
def setBase (p : Plane) : Nat := 0x16400000 + 0x08000000 * ((cfgNow p).set % 8)

/-- The set's header is in range, and the running image accepts the hash of the set (R345). -/
def setOk (p : Plane) : Bool :=
  let h := memRead 0xFF p.nvm.fw (setBase p) 4096
  Config.scanVersionOk h && decide (Config.scanSize h ≤ 18 * 2 ^ 20)
    && Config.scanAccepted p.boot.imageHash (Config.sha256 (memRead 0xFF p.nvm.fw (setBase p) (Config.scanSize h)))

/-- The end of a scan: its record, its counters, the response once the record is in NVM. -/
def scanEnd (e : Nat) (res : ScanResult) (p : Plane) : Plane :=
  let ok := setOk p
  let pass := ok && res.failing.isEmpty
  let code : Code := if !ok then .scanSetBad else if pass then .scanPass else .scanFail
  let fails := if !ok then 0xFFFF else min res.failing.length 0xFFFE
  let detail := if ok then (res.failing.take 8).flatMap (toLE 4) else []
  let key := p.order
  let p := scanWaits { p with order := p.order + 1 } e key
  let p := modPhys p e (fun x => { x with
    scanning := false
    scanPassed := x.scanPassed || pass })
  let p := ledgerAdd p 28 1
  let p := if pass then p else ledgerAdd p 29 1
  raise p code e none detail [.respond key (okResp [(if pass then 1 else 0) + fails * 2 ^ 16])]

/-- SCAN_COMPLETE ends the scan that runs. -/
def scanComplete (res : ScanResult) (p : Plane) : Plane :=
  match p.phys.find? (fun x => x.2.scanning && x.2.power == .active) with
  | none => p
  | some x => scanEnd x.1 res p

def execScanComplete (res : ScanResult) (s : State) : Host.Outcome State Fault Refusal :=
  onPlaneS s (scanComplete res)

/-! ## SEQ_FAULT (R260) -/

/-- Sequencer parity: the slots stop, the engine is fenced, the partition rolls back. -/
def seqFault (e : Nat) (p : Plane) : Plane :=
  if isFenced p e || (getPhys p e).power == .gated || p.regs.state != .ready then p
  else engineHard (raise p .seqFault e (partOfRegion p (e / 8)) (dArray ((getPhys p e).cur) 0 0 0 0 0 []) []) e

def execSeqFault (engine : Fin 64) (s : State) : Host.Outcome State Fault Refusal :=
  onPlaneS s (seqFault engine.val)

/-! ## Power states (R359 to R361) -/

/-- One virtual engine of an engine is idle (R360). -/
def vengIdle (p : Plane) (v : Nat) : Bool :=
  let x := getV p v
  x.tasks.all (fun t => t.2.st == .free) && !p.flights.any (fun f => f.veng == v)
    && (streamsOf p v).all (fun k => sState (getS p k) != 1)
    && (match x.ring with
      | none => true
      | some q => q.ended)
    && x.groups.all (fun g => g.2.st == .free) && x.arrivals.all (fun a => a.2 != .pending)
    && !(match partOf p v with
      | some i => (getP p i).epochs.any (fun n => n.phase == .running && bit n.arrived.toNat v)
      | none => false)

def engineIdle (p : Plane) (e : Nat) : Bool :=
  (hostedOn p e).all (vengIdle p) && !(getPhys p e).scanning

/-- The idle condition has held for 2^16 ROC counts. -/
def idleTimeout (e : Nat) (p : Plane) : Plane :=
  if (getPhys p e).power = .active ∧ engineIdle p e = true then
    modPhys p e (fun x => { x with
      power := .draining
      latched := false })
  else p

def execEngineIdleTimeout (engine : Fin 64) (s : State) : Host.Outcome State Fault Refusal :=
  onPlaneS s (idleTimeout engine.val)

/-- Every port response and every page-in that the engine waits for has come: its instructions in flight hold both. -/
def portDrained (p : Plane) (e : Nat) : Bool :=
  ((getMP p e).reqs ++ (getMP p e).waiting).all (fun r => match r.owner with
    | .flight _ => false
    | .spill _ => false
    | _ => true) && !p.flights.any (fun f => (getV p f.veng).host == e)

/-- A fenced engine wakes only for its scan (R362). -/
def mayWake (p : Plane) (e : Nat) : Bool := !isFenced p e || (getPhys p e).scanning

/-- The drain completes. -/
def drainComplete (e : Nat) (p : Plane) : Plane :=
  let x := getPhys p e
  if x.power = .draining ∧ portDrained p e = true then
    setPhys p e { x with
      power := if x.latched && mayWake p e then .active else .gated
      latched := false }
  else p

def execDrainComplete (engine : Fin 64) (s : State) : Host.Outcome State Fault Refusal :=
  onPlaneS s (drainComplete engine.val)

/-- An enable is latched and 4,096 ROC counts have passed in GATED. -/
def engineWake (e : Nat) (p : Plane) : Plane :=
  let x := getPhys p e
  if x.power = .gated ∧ x.latched = true ∧ mayWake p e = true then
    setPhys p e { x with
      power := .waking
      latched := false }
  else p

def execEngineWake (engine : Fin 64) (s : State) : Host.Outcome State Fault Refusal :=
  onPlaneS s (engineWake engine.val)

/-- 2,048 ROC counts have passed in WAKING: every task slot of its virtual engines is FREE. Only a task that a rollback
has put back since then begins (R253, R361). -/
def wakeComplete (e : Nat) (p : Plane) : Plane :=
  if (getPhys p e).power = .waking then
    (hostedOn p e).foldl (fun p v => modV p v (fun x => { x with
      tasks := x.tasks.map (fun t =>
        if t.2.st = .active then t else (t.1, { Task.init with checks := t.2.checks })) }))
      (modPhys p e (fun x => { x with power := .active }))
  else p

def execWakeComplete (engine : Fin 64) (s : State) : Host.Outcome State Fault Refusal :=
  onPlaneS s (wakeComplete engine.val)

end Sys2Proof.Machine
end

