-- ==== Sys2Proof/Machine/Health.lean ====
section
/-! DEFINITION. The black box (R324 to R331), the life ledger (R333 to R337), NVM (R305, R338, R339, R355),
reports and attestation (R292, R293, R321, R340 to R342). -/

namespace Sys2Proof.Machine

/-! ## Records in NVM -/

def ringSize : Nat := 2 ^ 22
def firstSize : Nat := 65536

/-- The 64 B record (R324). -/
def recBytes (r : Rec) : List Byte :=
  let part := match r.part with
    | some i => i + 2 ^ 7
    | none => 0
  let flags := (if r.cont then 1 else 0) + (if r.pinned then 2 else 0) + (if r.notKept then 4 else 0)
    + (if r.coal then 8 else 0)
  let b := toLE 8 r.seq ++ toLE 8 r.roc ++ toLE 1 r.level ++ toLE 1 r.source ++ toLE 2 r.code ++ toLE 1 part
    ++ zeros 1 ++ toLE 1 flags ++ zeros 1 ++ (r.detail ++ zeros 36).take 36
  b ++ toLE 4 (crc32c b)

/-- One more of a counted event (R239). -/
def bump (c : Counted) (e : EpRec) : EpRec :=
  match c with
  | .retry => { e with retryCnt := e.retryCnt + 1 }
  | .fallback => { e with fallbackCnt := e.fallbackCnt + 1 }
  | .index => { e with sidxCnt := e.sidxCnt + 1 }
  | .late => { e with lateCnt := e.lateCnt + 1 }
  | .floor => { e with flmmCnt := e.flmmCnt + 1 }
  | .waitBreak => { e with mwbCnt := e.mwbCnt + 1 }

/-- What acknowledges a record (R326). -/
def applyAck (p : Plane) (a : Ack) : Plane :=
  match a with
  | .pn i b => setPn p i b
  | .pl b => setPl p b
  | .count i n c => if (getP p i).epochs.any (fun e => e.n == n) then modEp p i n (bump c) else p
  | .respond k r => ackVerb k r p

/-- A unit of a span of NVM offsets found no spare (R339). -/
def unitDead (p : Plane) (off n : Nat) : Bool :=
  p.nvm.dead.any (fun u => decide (u * Config.eraseUnit < off + n) && decide (off < (u + 1) * Config.eraseUnit))

/-- NVM offset of a record's slot, and of a place in the first-fault area (R338). -/
def ringOff (slot : Nat) : Nat := 0x02000000 + 64 * slot
def firstOff (pin : Nat) : Nat := 0x12000000 + 64 * pin

/-- Ring slots of the same erase unit. -/
def sameUnit (a b : Nat) : Bool := 64 * a / Config.eraseUnit == 64 * b / Config.eraseUnit

/-- An older record in the erase unit that the writer enters (R328). -/
def erasedBy (seq : Nat) (r : Nat × Rec) : Bool :=
  decide (r.2.seq + 2 ^ 21 < seq) && sameUnit r.1 (seq % ringSize)

/-- The record goes to the first-fault area too (R329); not into a unit that is dead (log 113: DESIGN CHOICE, unsafe). -/
def pins (p : Plane) (r : Rec) : Bool :=
  decide (r.level ≤ 3) && decide (p.bb.pin < firstSize) && !unitDead p (firstOff p.bb.pin) 64

/-- One record reaches NVM: the first-fault area, the ring, what acknowledges it, the mirror. -/
def programRec (p : Plane) (x : Rec × List Ack) : Plane :=
  let b := p.bb
  let slot := x.1.seq % ringSize
  let pin := pins p x.1
  let r := { x.1 with pinned := pin }
  if unitDead p (ringOff slot) 64 then p
  else
    let p := { p with bb := { b with
      ring := spPut (b.ring.filter (fun y => !erasedBy r.seq y)) slot r
      torn := if slot = 0 ∨ sameUnit (slot - 1) slot = false then b.torn.filter (fun t => !sameUnit t slot) else b.torn
      first := if pin then spPut b.first b.pin r else b.first
      pin := if pin then b.pin + 1 else b.pin
      mirror := if bit p.duties.toNat 8 then b.mirror else b.mirror ++ [recBytes r] } }
    x.2.foldl applyAck (ledgerAdd p 17 1)

/-- A coalesced record when room returns (R327). -/
def writeCoal (p : Plane) : Plane :=
  match p.bb.coal with
  | [] => p
  | c :: t =>
    if 4096 ≤ p.bb.queue.length then p
    else
      let r : Rec := ⟨p.bb.nextSeq, rocOf p c.source, c.level, c.source, c.code, c.part, false, false, false, true,
        zeros 32 ++ toLE 4 c.count⟩
      { p with bb := { p.bb with
        queue := p.bb.queue ++ [(r, c.acks)]
        nextSeq := p.bb.nextSeq + 1
        coal := t } }

def writeLost (p : Plane) : Plane :=
  if p.bb.lost = 0 ∨ 4096 ≤ p.bb.queue.length ∨ p.bb.coal ≠ [] then p
  else
    let n := p.bb.lost
    let acks := p.bb.lostAcks
    let p := { p with bb := { p.bb with
      lost := 0
      lostAcks := [] } }
    raise (ledgerAdd p 18 n) .recordsLost srcCore none (toLE 8 n) acks

/-- The mirror write of the first waiting record (R330); one at a time. -/
def startMirror (p : Plane) : Plane :=
  if p.memp.any (fun m => (m.2.reqs ++ m.2.waiting).any (fun r => r.owner == .mirror)) then p
  else
    match p.bb.mirror with
    | [] => p
    | bs :: _ =>
      let a := (p.regs.bbmBase.toNat + 64 * (p.regs.widx.toNat % 2 ^ p.regs.log2n.toNat)) % 2 ^ 52
      agentReq (memStore p a bs) .write a 64 .mirror none

/-- A page of at most four records is programmed (R326, R327). (log 35: DESIGN CHOICE, unsafe) -/
def recordProgrammed (p : Plane) : Plane :=
  if p.regs.state ≠ .ready ∧ p.regs.state ≠ .halted then p
  else
    let page := p.bb.queue.take 4
    let p := { p with bb := { p.bb with queue := p.bb.queue.drop 4 } }
    let p := page.foldl programRec p
    let p := writeCoal (writeCoal (writeCoal (writeCoal p)))
    startMirror (writeLost p)

def execRecordProgrammed (s : State) : Host.Outcome State Fault Refusal := onPlaneS s recordProgrammed

/-! ## BLACKBOX_READ (R293, R328, R329) -/

/-- Ring records in ascending order of SEQ. -/
def ringOrder (b : BlackBox) : List Rec :=
  let top := (b.ring.foldl (fun n r => max n r.2.seq) 0) % ringSize
  ((b.ring.filter (fun r => decide (top < r.1))) ++ (b.ring.filter (fun r => decide (r.1 ≤ top)))).map Prod.snd

def visibleTo (mgmt : Bool) (i : Nat) (r : Rec) : Bool := mgmt || r.part == none || r.part == some i

/-- Up to `n` visible records of a list of (position, record), and the position after the last examined. -/
def takeRecs (ok : Rec → Bool) : Nat → List (Nat × Rec) → Nat → List Rec × Nat
  | _, [], k => ([], k)
  | 0, _, k => ([], k)
  | n + 1, (j, r) :: t, _ =>
    if ok r then
      let x := takeRecs ok n t (j + 1)
      (r :: x.1, x.2)
    else takeRecs ok (n + 1) t (j + 1)

def readRow : VerbRow := ⟨0x50, anyReq, false, .no⟩

/-- (log 112: DESIGN CHOICE, unsafe) -/
def readRun (c : Call) (p : Plane) : Plane :=
  let first := c.q.arg 0
  let n := c.arg 1 31 0
  let d := c.arg 2 51 0
  let area := c.flag 3 0
  let b := p.bb
  let ok := visibleTo (isMgmt p c.s) c.i
  if 65536 < n ∨ d % 64 ≠ 0 then c.err stBadArg p
  else if (if area then b.pin else b.nextSeq) < first then c.err stRecordRange p
  else
    let recs := ringOrder b
    let oldest := (recs.head?.map Rec.seq).getD b.nextSeq
    let x :=
      if area then takeRecs ok n (b.first.filter (fun r => decide (first ≤ r.1))) first
      else takeRecs ok n ((recs.filter (fun r => decide (first ≤ r.seq))).map (fun r => (r.seq, r))) (max first oldest)
    let bs := x.1.flatMap recBytes
    if !memOk p c.i d bs.length then c.err stMemFault p
    else c.output d bs [x.1.length, x.2, if area then 0 else oldest] p

def execBlackboxRead (m : Fin 64) (fails : Fails) (s : State) : Host.Outcome State Fault Refusal :=
  onPlaneS s (runVerbMem m.val readRow fails readRun)

/-! ## TIME_NOTE (R292) -/

def timeRow : VerbRow := ⟨0x53, anyReq, false, .no⟩

/-- The response waits for the record; a full queue holds the verb, so that its record gets a SEQ. -/
def timeRun (c : Call) (p : Plane) : Plane :=
  if 4096 ≤ p.bb.queue.length then p
  else
    let key := p.order
    let seq := p.bb.nextSeq
    let p := c.wait (.nvm key) p
    raise p .timeNote srcCore none (toLE 8 (c.q.arg 0) ++ toLE 4 (c.arg 1 31 0)) [.respond key (okResp [seq])]

def execTimeNote (m : Fin 64) (s : State) : Host.Outcome State Fault Refusal :=
  onPlaneS s (runVerb m.val timeRow timeRun)

/-! ## MARGIN_REPORT (R321) -/

def marginRow : VerbRow := ⟨0x52, anyReq, false, .no⟩

def slackWord (p : Plane) (f : Region → Nat) : Nat := forN 8 0 (fun n r => n + f (getRg p r) * 2 ^ (8 * r))

def pacedMask (p : Plane) : Nat := forN 8 0 (fun n r => if regionLevel p r < 15 then n + 2 ^ r else n)

/-- Each report restarts the lowest-code record. -/
def marginRun (c : Call) (p : Plane) : Plane :=
  let v := [slackWord p Region.slack, slackWord p Region.slackMin, pacedMask p]
  c.ok v (forN 8 p (fun p r => modRg p r (fun x => { x with slackMin := x.slack })))

def execMarginReport (m : Fin 64) (s : State) : Host.Outcome State Fault Refusal :=
  onPlaneS s (runVerb m.val marginRow marginRun)

/-! ## The ledger -/

def cntAt (l : Sparse Nat) (i : Nat) : Nat := spGetD l i 0

/-- The signed range of an image: counters 0 to 2,039, counter 7 as 0. -/
def signedBytes (cnt : Sparse Nat) : List Byte :=
  (List.range 2040).flatMap (fun i => toLE 8 (if i = 7 then 0 else cntAt cnt i))

/-- r then s, big-endian. -/
def sigBytes (s : BitVec 512) : List Byte := (toLE 64 s.toNat).reverse

def imageWithout (f : Flushed) : List Byte :=
  signedBytes f.cnt ++ sigBytes f.sig ++ (List.range 4096).flatMap (fun b => toLE 4 (cntAt f.hist b))

/-- A flushed image: 32,768 B, its CRC in bits [31:0] of counter 7 (R335). -/
def ledgerImage (f : Flushed) : List Byte :=
  let b := imageWithout f
  b.take 56 ++ toLE 4 (crc32c b) ++ b.drop 60

/-- The latest flushed image (R337); an erased slot reads 0xFF. -/
def latestFlush (p : Plane) : Option Flushed := p.ledger.last.bind (spGet p.nvm.ledger)

def latestImage (p : Plane) : List Byte :=
  match latestFlush p with
  | some f => ledgerImage f
  | none => List.replicate 32768 0xFF#8

def latestSeq (p : Plane) : Nat := ((latestFlush p).map (fun f => cntAt f.cnt 1)).getD 0

/-- A signature of the identity key; 64 zero bytes after IDENTITY_BAD (R340, R341). -/
def sign (p : Plane) (bs : List Byte) : Plane × BitVec 512 :=
  if p.boot.identityBad then (p, 0)
  else
    let s := Config.ecdsaSign p.freeCtr bs
    (ledgerAdd { p with freeCtr := p.freeCtr + 1 } 27 1, s)

def setCnt (l : Sparse Nat) (i n : Nat) : Sparse Nat := spSet 0 l i n

def reasonCode : FlushReason → Nat
  | .period => 0
  | .orderlyStop => 1
  | .ledgerRead => 2

/-- Counters 1 to 6 of the frozen copy (R335 step 2). (log 114: DESIGN CHOICE, unsafe) -/
def flushCnt (p : Plane) (r : FlushReason) : Sparse Nat :=
  let c := p.ledger.cnt
  let c := setCnt (setCnt c 1 (cntAt c 1 + 1)) 2 (reasonCode r)
  let c := setCnt (setCnt c 3 p.bb.nextSeq) 4 p.bb.pin
  setCnt (setCnt c 5 p.pins.refRoc) 6 (p.fuses.serial.toNat % 2 ^ 64)

def isLedgerWrite (w : NvmWrite) : Bool :=
  match w with
  | .ledger _ _ _ => true
  | _ => false

def joinFlush (r : List LedgerReader) (w : NvmWrite) : NvmWrite :=
  match w with
  | .ledger k f l => .ledger k f (l ++ r)
  | w => w

/-- A flush; one that is requested while another runs joins it (R335, R336). -/
def flush (reason : FlushReason) (readers : List LedgerReader) (p : Plane) : Plane :=
  if p.nvm.writes.any isLedgerWrite then
    { p with nvm := { p.nvm with writes := p.nvm.writes.map (joinFlush readers) } }
  else
    let c := flushCnt p reason
    let hist := p.ledger.hist
    let p := { p with ledger := { p.ledger with cnt := c } }
    let x := sign p (signedBytes c)
    let w : NvmWrite := .ledger (cntAt c 1 % 2048) ⟨c, hist, x.2⟩ readers
    { x.1 with nvm := { x.1.nvm with writes := x.1.nvm.writes ++ [w] } }

/-- LEDGER_FLUSH: the period counts only in the hardware mode of the duty. -/
def ledgerFlush (r : FlushReason) (p : Plane) : Plane :=
  if p.regs.state ≠ .ready ∨ (r = .period ∧ bit p.duties.toNat 9 = true) then p else flush r [] p

def execLedgerFlush (reason : FlushReason) (s : State) : Host.Outcome State Fault Refusal :=
  onPlaneS s (ledgerFlush reason)

def ledgerRow : VerbRow := ⟨0x51, anyReq, true, .no⟩

/-- LEDGER_READ (R293, R337). -/
def ledgerReadRun (c : Call) (p : Plane) : Plane :=
  let d := c.arg 0 51 0
  if d % 4096 ≠ 0 then c.err stBadArg p
  else if !memOk p c.i d 32768 then c.err stMemFault p
  else if c.flag 1 0 then
    let key := p.order
    flush .ledgerRead [⟨key, c.i, d, c.fails⟩] (c.wait (.nvm key) p)
  else c.output d (latestImage p) [32768, latestSeq p] p

def execLedgerRead (m : Fin 64) (fails : Fails) (s : State) : Host.Outcome State Fault Refusal :=
  onPlaneS s (runVerbMem m.val ledgerRow fails ledgerReadRun)

/-! ## LEDGER_SAMPLE (R334) -/

def histBump (l : Ledger) (h b : Nat) : Ledger :=
  { l with hist := spSet 0 l.hist (64 * h + b) (sat32 (spGetD l.hist (64 * h + b) 0) 1) }

def tempBin (t : Int) : Nat := min 63 ((t + 10) / 2).toNat

def sampleRegion (p : Plane) (r : Nat) : Plane :=
  let x := getRg p r
  let l := histBump (histBump (histBump p.ledger (1 + r) (tempBin x.temp)) (9 + r) (x.slackLedger / 4))
    (17 + r) (regionLevel p r)
  modRg { p with ledger := l } r (fun x => { x with slackLedger := x.slack })

/-- Every 2^24 ROC counts of the reference region. -/
def ledgerSample (p : Plane) : Plane :=
  if p.regs.state ≠ .ready ∧ p.regs.state ≠ .halted then p
  else
    let p := forN 8 p sampleRegion
    { p with ledger := histBump (histBump p.ledger 0 (p.pins.vreq / 4)) 25 (min 63 (p.pins.watts / 20)) }

def execLedgerSample (s : State) : Host.Outcome State Fault Refusal := onPlaneS s ledgerSample

/-! ## ATTEST (R342) -/

def attestRow : VerbRow := ⟨0x54, anyReq, false, .no⟩

def beBytes (n w : Nat) : List Byte := (toLE n w).reverse

/-- The newer identity copy (R339). -/
def identNow (p : Plane) : Option IdentCopy :=
  p.nvm.ident.foldl (fun a c => match a with
    | none => some c
    | some b => if b.gen < c.gen then some c else a) none

/-- The first-fault area, slots 0 to PIN − 1. -/
def firstBytes (p : Plane) : List Byte :=
  (List.range p.bb.pin).flatMap (fun k => match spGet p.bb.first k with
    | some r => recBytes r
    | none => spGetD p.bb.tornFirst k (List.replicate 64 0xFF#8))

def plId : Nat := 0x0064 * 2 ^ 16 + 0x0302

/-- Bytes 0 to 319. -/
def attestBody (p : Plane) (nonce : List Byte) : List Byte :=
  let sigs := cntAt p.ledger.cnt 27 + (if p.boot.identityBad then 0 else 1)
  toLE 2 1 ++ toLE 2 ((if p.boot.identityBad then 1 else 0) + (if p.boot.ledgerZero then 2 else 0)) ++ toLE 4 384
    ++ nonce ++ toLE 16 p.fuses.serial.toNat ++ beBytes 64 (((identNow p).map IdentCopy.pub).getD 0).toNat
    ++ beBytes 32 p.boot.imageHash.toNat ++ beBytes 32 p.fuses.fwKeyHash.toNat ++ toLE 4 p.regs.release.toNat
    ++ toLE 4 plId ++ toLE 8 (fencedMask p).toNat ++ toLE 8 p.fuses.factoryFence.toNat ++ toLE 8 p.bb.nextSeq
    ++ toLE 8 p.bb.pin ++ beBytes 32 (Config.sha256 (latestImage p)).toNat
    ++ beBytes 32 (Config.sha256 (firstBytes p)).toNat ++ toLE 8 p.pins.refRoc ++ toLE 8 sigs
    ++ zeros 16

def attestRun (c : Call) (p : Plane) : Plane :=
  let a := c.arg 0 51 0
  let d := c.arg 1 51 0
  if c.arg 2 31 0 < 384 then c.err stBadArg p
  else if !c.accessOk p a 32 then c.readFault a 32 p
  else if !memOk p c.i d 384 then c.err stMemFault p
  else
    let b := attestBody p (memAt p a 32)
    let x := sign p b
    c.output d (b ++ sigBytes x.2) [384] x.1

def execAttest (m : Fin 64) (fails : Fails) (s : State) : Host.Outcome State Fault Refusal :=
  onPlaneS s (runVerbMem m.val attestRow fails attestRun)

/-! ## NVM (R305, R339, R351, R355) -/

/-- The newest two configuration copies. -/
def putCfg (l : List CfgCopy) (c : CfgCopy) : List CfgCopy :=
  (l.filter (fun x => decide (c.gen ≤ x.gen + 1))) ++ [c]

/-- A mask is in NVM: the FENCE or UNFENCE record, and with it what acknowledges it. -/
def maskWritten (p : Plane) (e : Nat) (fence : Bool) (key : Option Nat) (v0 : Nat) : Plane :=
  let acks : List Ack := (if fence then [.pl 1] else []) ++ (match key with
    | some k => [.respond k (okResp (if fence then [v0] else []))]
    | none => [])
  raise p (if fence then .fence else .unfence) srcCore (partOfRegion p (e / 8)) (dHw p (e / 8) e 0 0) acks

def giveImage (f : Flushed) (p : Plane) (r : LedgerReader) : Plane :=
  let p := storeFail r.fails r.dst (ledgerImage f) p
  match failedReqs r.fails r.dst 32768 with
  | [] => ackVerb r.key (okResp [32768, cntAt f.cnt 1]) p
  | bad => verbErrors r.part [.respond r.key (errResp stMemFault)] bad p

/-- Where a write goes (R338, R339). -/
def writeSpan (w : NvmWrite) : Nat × Nat :=
  match w with
  | .cfg c _ _ _ _ => (0x56430000 + 0x1000 * (c.gen % 2), 4096)
  | .ledger k _ _ => (0x12400000 + 32768 * k, 32768)

/-- A slot that is not blank has its erase unit erased first: the other old slots of the unit go with it (R335 step 5). -/
def eraseFor (l : Sparse Flushed) (k : Nat) : Sparse Flushed :=
  if (spGet l k).isNone then l
  else l.filter (fun x => 32768 * x.1 / Config.eraseUnit != 32768 * k / Config.eraseUnit)

/-- Read Status shows that firmware's first NVM write is complete. A write to a unit without a spare is never
acknowledged (R339). -/
def nvmComplete (p : Plane) : Plane :=
  match p.nvm.started, p.nvm.writes with
  | true, w :: t =>
    let p := { p with nvm := { p.nvm with
      writes := t
      started := false } }
    if unitDead p (writeSpan w).1 (writeSpan w).2 then p
    else
      match w with
      | .cfg c e fence key v0 =>
        maskWritten { p with nvm := { p.nvm with cfg := putCfg p.nvm.cfg c } } e fence key v0
      | .ledger k f readers =>
        let p := { p with
          nvm := { p.nvm with ledger := spPut (eraseFor p.nvm.ledger k) k f }
          ledger := { p.ledger with last := some k } }
        readers.foldl (giveImage f) (ledgerAdd p 16 1)
  | _, _ => p

/-- The commands of a write on the port, in order (R305). -/
def writeCmds (blank : Bool) : List NvmCmd :=
  (if blank then [] else [.writeEnable, .erase, .readStatus]) ++ [.writeEnable, .pageProgram, .readStatus]

/-- The output NVM_RESET_N: low while PWR_OK is low; the start-up command covers the counts after it rises. -/
def nvmResetN (p : Plane) : Bool := p.regs.held != .power

def execNvmProgramComplete (s : State) : Host.Outcome State Fault Refusal := onPlaneS s nvmComplete

/-- The accepted copy of the bad-unit list (R339). -/
def badNow (p : Plane) : BadCopy :=
  p.nvm.bad.foldl (fun a c => if a.gen < c.gen then c else a) ⟨0, []⟩

/-- A program or erase failed: the unit is replaced by the lowest free spare, in a new copy of the list over the older
one (R339); without a spare it is recorded, and writes to it are never acknowledged. -/
def unitRetired (u : Nat) (p : Plane) : Plane :=
  let p := ledgerAdd (ledgerAdd p 21 1) 20 1
  let b := badNow p
  let n := b.pairs.length
  if n < min 4096 Config.spareUnits then
    { p with nvm := { p.nvm with
      bad := (p.nvm.bad.filter (fun c => decide (b.gen ≤ c.gen)))
        ++ [⟨b.gen + 1, b.pairs ++ [(u, 0x56500000 + n * Config.eraseUnit)]⟩] } }
  else
    let p := { p with nvm := { p.nvm with dead := p.nvm.dead ++ [u / Config.eraseUnit] } }
    raise p .nvmUnitRetired srcCore none (dPort 0 0 [] u) []

def execNvmUnitRetired (unit : U32) (s : State) : Host.Outcome State Fault Refusal :=
  onPlaneS s (unitRetired unit.toNat)

/-- Only in TEST, only the firmware regions and the scan pattern store (R351). -/
def instrumentOk (off n : Nat) : Bool :=
  decide (off + n ≤ 0x02000000) || (decide (0x16400000 ≤ off) && decide (off + n ≤ 0x56400000))

/-- A write stores the data; a read captures as many bytes. -/
def nvmInstrument (write : Bool) (off : Nat) (data : List Byte) (p : Plane) : Plane :=
  if p.regs.state != .test || !instrumentOk off data.length then p
  else if write then { p with nvm := { p.nvm with fw := memWrite 0xFF p.nvm.fw off data } }
  else { p with pins := { p.pins with tdo := memRead 0xFF p.nvm.fw off data.length } }

def execNvmInstrumentAccess (write : Bool) (off : U32) (data : List Byte) (s : State) :
    Host.Outcome State Fault Refusal :=
  onPlaneS s (nvmInstrument write off.toNat data)

end Sys2Proof.Machine
end

