-- ==== Sys2Proof/Machine/Registers.lean ====
section
/-! DEFINITION. The control port (R304): the register window and mailbox memory (R267 to R274), notification
causes and lines (R295). -/

namespace Sys2Proof.Machine

/-! ## Accesses -/

/-- A cold reset or the lack of power holds the Plane. -/
def heldCold (p : Plane) : Bool := p.regs.held == .cold || p.regs.held == .power

def ctlpAnswer (p : Plane) (err : Bool) : Plane :=
  { p with regs := { p.regs with
      rspData := 0
      rspErr := err } }

/-- A write is answered with data 0; in a cold reset it is ignored with RSP_ERR. -/
def ctlpWrite (f : Plane → Plane) (p : Plane) : Plane :=
  if heldCold p then ctlpAnswer p true else ctlpAnswer (f p) false

/-- Bits hi to lo of a written word, in place. -/
def keepBits (w hi lo : Nat) : Nat := bits w hi lo * 2 ^ lo

/-! ## Mailbox pages (R273, R274) -/

/-- A doorbell; firmware takes doorbells while it serves the mailboxes. (log 104: DEDUCED, safe) -/
def doorbell (m : Nat) (tail : BitVec 8) (p : Plane) : Plane :=
  if !mbxServed p then p
  else
    let x := getM p m
    let new := (tail - x.reqHead).toNat
    let old := (x.reqTail - x.reqHead).toNat
    if new ≤ 128 ∧ old ≤ new then setM p m { x with reqTail := tail } else setM p m { x with dbErr := true }

def rspHeadWrite (m : Nat) (w : Nat) (p : Plane) : Plane :=
  modM p m (fun x => { x with rspHead := BitVec.ofNat 8 (bits w 15 8) })

def mbxCtrlWrite (m : Nat) (w : Nat) (p : Plane) : Plane :=
  modM p m (fun x => { x with
    nline := BitVec.ofNat 4 (bits w 7 4)
    rien := bit w 0 })

def mbxStatusWrite (m : Nat) (w : Nat) (p : Plane) : Plane :=
  modM p m (fun x => { x with
    dbErr := x.dbErr && !bit w 9
    rsp := x.rsp && !bit w 8 })

def mbxPageWrite (m off w : Nat) (p : Plane) : Plane :=
  match off with
  | 0x00 => doorbell m (BitVec.ofNat 8 w) p
  | 0x10 => rspHeadWrite m w p
  | 0x18 => mbxCtrlWrite m w p
  | 0x20 => mbxStatusWrite m w p
  | _ => p

/-! ## The plane page (R268, R269) -/

def hasProg (p : Plane) (v : Nat) : Bool := (getV p v).prog.isSome

/-- PL_STATUS.LOCKED. -/
def locked (p : Plane) : Bool := p.vengs.any (fun v => v.2.prog.isSome)

def partLocked (p : Plane) (i : Nat) : Bool := (partVengs p i).any (hasProg p)

def baseWrite (reg : BaseReg) (w : Nat) (p : Plane) : Plane :=
  match reg with
  | .ctx => if locked p then p else { p with regs := { p.regs with ctxBase := BitVec.ofNat 52 (keepBits w 51 31) } }
  | .hist => if locked p then p else { p with regs := { p.regs with histBase := BitVec.ofNat 52 (keepBits w 51 21) } }
  | .spill => if locked p then p else { p with regs := { p.regs with spillBase := BitVec.ofNat 52 (keepBits w 51 31) } }
  | .ms i =>
    if partLocked p i.val then p
    else modP p i.val (fun x => { x with msBase := BitVec.ofNat 52 (keepBits w 51 23) })

def ncauseWrite (w : Nat) (p : Plane) : Plane :=
  { p with regs := { p.regs with ncause := p.regs.ncause &&& ~~~(BitVec.ofNat 5 w) } }

def log2nWrite (w : Nat) (p : Plane) : Plane :=
  let n := bits w 4 0
  if 10 ≤ n ∧ n ≤ 22 then { p with regs := { p.regs with log2n := BitVec.ofNat 5 n } } else p

def planePageWrite (off w : Nat) (p : Plane) : Plane :=
  match off with
  | 0x020 => baseWrite .ctx w p
  | 0x028 => baseWrite .hist w p
  | 0x030 => baseWrite .spill w p
  | 0x038 => { p with regs := { p.regs with bbmBase := BitVec.ofNat 52 (keepBits w 51 12) } }
  | 0x040 => log2nWrite w p
  | 0x080 => ncauseWrite w p
  | 0x088 => { p with regs := { p.regs with nen := BitVec.ofNat 5 w } }
  | 0x090 => { p with regs := { p.regs with nline := BitVec.ofNat 4 w } }
  | _ => p

/-! ## Partition pages (R270) -/

def pncauseWrite (i w : Nat) (p : Plane) : Plane :=
  modP p i (fun x => { x with pncause := x.pncause &&& ~~~(BitVec.ofNat 7 w) })

def partPageWrite (i : Fin 8) (off w : Nat) (p : Plane) : Plane :=
  match off with
  | 0x00 => baseWrite (.ms i) w p
  | 0x18 => pncauseWrite i.val w p
  | 0x20 => modP p i.val (fun x => { x with pnen := BitVec.ofNat 7 w })
  | 0x28 => modP p i.val (fun x => { x with pnline := BitVec.ofNat 4 w })
  | _ => p

/-! ## Any write (R267) -/

/-- The word holds the header of a request slot. -/
def isReqHdr (off : Nat) : Bool := decide (off % 0x4000 < 0x2000) && off % 64 == 0

/-- The enabled bytes of a word of mailbox memory; the reserved bits of a request's header stay 0 (R6, R272). -/
def mbxMemWrite (off : Nat) (be : BitVec 8) (w : Nat) (p : Plane) : Plane :=
  let w := if isReqHdr off then w &&& 0x0000FFFFFFFF01FF else w
  { p with mbxMem := forN 8 p.mbxMem (fun m k =>
      if bit be.toNat k then memPut 0 m (off + k) (BitVec.ofNat 8 (w / 2 ^ (8 * k))) else m) }

def windowWrite (a w : Nat) (p : Plane) : Plane :=
  if a < 0x1000 then planePageWrite a w p
  else if a < 0x2000 then mbxPageWrite ((a - 0x1000) / 64) (a % 64) w p
  else if h : (a - 0x2000) / 256 < 8 then partPageWrite ⟨(a - 0x2000) / 256, h⟩ (a % 256) w p
  else p

/-- (log 42: DESIGN CHOICE, safe) -/
def anyWrite (a : Nat) (be : BitVec 8) (w : Nat) (p : Plane) : Plane :=
  if 0x100000 ≤ a then mbxMemWrite (a - 0x100000) be w p
  else if a < 0x10000 ∧ a % 8 = 0 ∧ be = 0xFF#8 then windowWrite a w p
  else p

def execMbxDb (m : Fin 64) (data : U64) (s : State) : Host.Outcome State Fault Refusal :=
  onPlaneS s (ctlpWrite (doorbell m.val (BitVec.ofNat 8 data.toNat)))

def execMbxRspHead (m : Fin 64) (data : U64) (s : State) : Host.Outcome State Fault Refusal :=
  onPlaneS s (ctlpWrite (rspHeadWrite m.val data.toNat))

def execMbxStatus (m : Fin 64) (data : U64) (s : State) : Host.Outcome State Fault Refusal :=
  onPlaneS s (ctlpWrite (mbxStatusWrite m.val data.toNat))

def execPlNcause (data : U64) (s : State) : Host.Outcome State Fault Refusal :=
  onPlaneS s (ctlpWrite (ncauseWrite data.toNat))

def execPlPncause (part : Fin 8) (data : U64) (s : State) : Host.Outcome State Fault Refusal :=
  onPlaneS s (ctlpWrite (pncauseWrite part.val data.toNat))

def execBaseRegisterWrite (reg : BaseReg) (data : U64) (s : State) : Host.Outcome State Fault Refusal :=
  onPlaneS s (ctlpWrite (baseWrite reg data.toNat))

def execRegisterWrite (addr : BitVec 21) (be : BitVec 8) (data : U64) (s : State) : Host.Outcome State Fault Refusal :=
  onPlaneS s (ctlpWrite (anyWrite addr.toNat be data.toNat))

/-! ## What a read returns (R267, R268, R270, R273); reads change nothing -/

def PlState.code : PlState → Nat
  | .reset => 0
  | .boot => 1
  | .ready => 2
  | .fatal => 3
  | .test => 4
  | .halted => 5

def partsMask (p : Plane) : Nat := forN 8 0 (fun n i => if (getP p i).defined then n + 2 ^ i else n)

def mgmtOpen (p : Plane) : Bool := p.sessions.any (fun s => s.2.mgmt)

def plStatus (p : Plane) : Nat :=
  (if mgmtOpen p then 2 ^ 24 else 0) + partsMask p * 2 ^ 16 + p.sessions.length * 2 ^ 8
    + p.regs.fwslot.toNat * 2 ^ 5 + (if locked p then 2 ^ 4 else 0) + p.regs.state.code

def planePageRead (p : Plane) (off : Nat) : Nat :=
  match off with
  | 0x000 => plId
  | 0x008 => plStatus p
  | 0x010 => p.regs.release.toNat
  | 0x020 => p.regs.ctxBase.toNat
  | 0x028 => p.regs.histBase.toNat
  | 0x030 => p.regs.spillBase.toNat
  | 0x038 => p.regs.bbmBase.toNat
  | 0x040 => p.regs.log2n.toNat
  | 0x048 => p.regs.widx.toNat
  | 0x080 => p.regs.ncause.toNat
  | 0x088 => p.regs.nen.toNat
  | 0x090 => p.regs.nline.toNat
  | 0x100 => (fencedMask p).toNat
  | _ => 0

def mbxStatusWord (p : Plane) (m : Nat) : Nat :=
  let x := getM p m
  (if rspFull x then 2 ^ 10 else 0) + (if x.dbErr then 2 ^ 9 else 0) + (if x.rsp then 2 ^ 8 else 0)
    + (if x.isOpen && isMgmt p x.session then 2 ^ 7 else 0) + (if x.isOpen then 2 ^ 6 + x.session else 0)

def mbxPageRead (p : Plane) (m off : Nat) : Nat :=
  let x := getM p m
  match off with
  | 0x08 => x.reqTail.toNat * 2 ^ 8 + x.reqHead.toNat
  | 0x10 => x.rspHead.toNat * 2 ^ 8 + x.rspTail.toNat
  | 0x18 => x.nline.toNat * 2 ^ 4 + (if x.rien then 1 else 0)
  | 0x20 => mbxStatusWord p m
  | _ => 0

def partPageRead (p : Plane) (i off : Nat) : Nat :=
  let x := getP p i
  match off with
  | 0x00 => x.msBase.toNat
  | 0x08 => epochNo (running p i)
  | 0x10 => x.committed
  | 0x18 => x.pncause.toNat
  | 0x20 => x.pnen.toNat
  | 0x28 => x.pnline.toNat
  | 0x40 => (x.win.getD 0 0).toNat
  | 0x48 => (x.win.getD 1 0).toNat
  | 0x50 => (x.win.getD 2 0).toNat
  | 0x58 => (x.win.getD 3 0).toNat
  | _ => 0

def taskCode : TaskSt → Nat
  | .free => 0
  | .active => 1
  | .stopped => 2
  | .ending => 3

/-- ENG_TASK_STATE (R270). -/
def taskStates (p : Plane) (v : Nat) : Nat := forN 16 0 (fun n s => n + taskCode (getT p v s).st * 2 ^ (2 * s))

def windowRead (p : Plane) (a : Nat) : Nat :=
  if a < 0x1000 then planePageRead p a
  else if a < 0x2000 then mbxPageRead p ((a - 0x1000) / 64) (a % 64)
  else if a < 0x2800 then partPageRead p ((a - 0x2000) / 256) (a % 256)
  else if 0x3000 ≤ a ∧ a < 0x3200 then taskStates p ((a - 0x3000) / 8)
  else if 0x3200 ≤ a ∧ a < 0x3400 then (getV p ((a - 0x3200) / 8)).bufCfg.toNat
  else 0

/-- The answer to a read: RDATA and RSP_ERR (R304). -/
structure CtlpRsp where
  data : Nat
  err : Bool
deriving DecidableEq, Repr

/-- The enabled bytes of a word; the others read 0. -/
def enabledBytes (w : Nat) (be : BitVec 8) : Nat :=
  forN 8 0 (fun n k => if bit be.toNat k then n + w / 2 ^ (8 * k) % 256 * 2 ^ (8 * k) else n)

/-- A read of the 8 B word at `a` with byte enables; one of the window that is narrower gives 0 (R267).
(log 135: DESIGN CHOICE, safe) -/
def ctlpRead (p : Plane) (a : Nat) (be : BitVec 8) : CtlpRsp :=
  if heldCold p then ⟨0, true⟩
  else if 0x100000 ≤ a then ⟨enabledBytes (memNat 0 p.mbxMem (a - 0x100000) 8) be, false⟩
  else if a < 0x10000 ∧ a % 8 = 0 ∧ be = 0xFF#8 then ⟨windowRead p a, false⟩
  else ⟨0, false⟩

/-! ## NOTIFY[15:0] (R295) -/

def notify (p : Plane) (n : Nat) : Bool :=
  (p.regs.nline.toNat == n && p.regs.ncause &&& p.regs.nen != 0)
    || (List.range 8).any (fun i => let x := getP p i; x.pnline.toNat == n && x.pncause &&& x.pnen != 0)
    || p.mbx.any (fun m => m.2.rien && m.2.rsp && m.2.nline.toNat == n)

end Sys2Proof.Machine
end

