-- ==== Sys2Proof/Machine/Ports.lean ====
section
/-! DEFINITION. Memory and collective ports (R297 to R303): responses, host resets, credits, watchdogs (R320). -/

namespace Sys2Proof.Machine

/-- Record source of a port: the error collector of its region. -/
def memSrc (n : Nat) : Nat := 0x40 + n / 8
def collSrc (n : Nat) : Nat := 0x40 + n / 2

/-- A response or a credit that answers nothing is discarded and recorded (R301, R303). (log 117: DESIGN CHOICE, unsafe) -/
def portProtocol (src port : Nat) (tags : List Nat) (p : Plane) : Plane :=
  raise p .portProtocol src (partOfRegion p (src - 0x40)) (dPort port 0 tags 0) []

/-! ## Completion of a request -/

def removeTag (m : MPort) (tag : Nat) : MPort := { m with reqs := m.reqs.filter (fun r => r.tag != tag) }

def goOn (n : Nat) (p : Plane) : Plane := setMP p n (promote 65 (getMP p n))

/-- Final OK: the mirror takes its next record (R330); every other owner counts its requests. -/
def reqOk (r : PReq) (p : Plane) : Plane :=
  match r.owner with
  | .mirror =>
    startMirror { p with
      regs := { p.regs with widx := p.regs.widx + 1 }
      bb := { p.bb with mirror := p.bb.mirror.drop 1 } }
  | _ => p

/-- MEM_ERROR of an agent that is no engine. -/
def agentError (n : Nat) (r : PReq) (p : Plane) : Plane :=
  raise p .memError srcCore r.part (dExec 0 0 0 0 0 0 (r.addr % 2 ^ 52 + r.tag * 2 ^ 52 + n * 2 ^ 58)) []

/-- MEM_ERROR of an engine's transfer, which is now failed (R194). -/
def flightError (n id : Nat) (r : PReq) (p : Plane) : Plane :=
  let p := failFlight p id (if r.op = .read then [(r.addr, r.len)] else [])
  match p.flights.find? (fun f => f.id == id) with
  | some f => memError p f.veng f.slot r.part r.addr r.tag n
  | none => agentError n r p

/-- Final ERROR (R300): the request completes as failed; a Milestone's fence goes out again (R299). -/
def reqError (n : Nat) (r : PReq) (p : Plane) : Plane :=
  let p := ledgerAdd p (1368 + n) 1
  let p := if r.op = .write then freeBytes p r.addr r.len else p
  match r.owner with
  | .flight id => flightError n id r p
  | .milestone i k =>
    let p := agentError n r p
    if r.op = .fence then pushReq p n .fence 0 0 (.milestone i k) r.part else p
  | .mirror => startMirror (ledgerAdd { p with bb := { p.bb with mirror := p.bb.mirror.drop 1 } } 19 1)
  | .page id =>
    let p := agentError n r p
    if p.gaz.paging.contains id then pageBad p id else p
  | .spill v => memError p v 0 r.part r.addr r.tag n
  | .agent => agentError n r p

/-- Take a request off its port and end it; MEM_REQ counts it (R367). -/
def complete (n : Nat) (ok : Bool) (r : PReq) (p : Plane) : Plane :=
  let p := stallR (setMP p n (removeTag (getMP p n) r.tag)) (n / 8) 1 1
  if ok then reqOk r p else reqError n r p

/-- The wrapper reissues a request, at most three times (R300). -/
def reissue (n : Nat) (r : PReq) (p : Plane) : Plane :=
  let m := getMP p n
  setMP p n { m with reqs := m.reqs.map (fun x => if x.tag = r.tag then { x with retries := x.retries + 1 } else x) }

/-- One response. -/
def respond (n : Nat) (status : Nat) (r : PReq) (p : Plane) : Plane :=
  let p := setMP p n { getMP p n with stallRec := false }
  if status = 0 then complete n true r p
  else if status = 2 then
    let p := stallR (ledgerAdd p (1304 + n) 1) (n / 8) 2 1
    if r.retries < 3 then reissue n r p else complete n false r p
  else complete n false r p

/-- The ports of the Plane run: it is not held in reset. -/
def portsRun (p : Plane) : Bool := p.regs.held == .no

/-- MEMP_RESPONSE: a quarantined region's ports have stopped (R262). (log 133: DESIGN CHOICE, safe) -/
def mempResponse (n tag status : Nat) (p : Plane) : Plane :=
  if !portsRun p || (getRg p (n / 8)).quarantined then p
  else
    match (getMP p n).reqs.find? (fun r => r.tag == tag) with
    | none => portProtocol (memSrc n) n [tag] p
    | some r => goOn n (respond n status r p)

def execMempResponse (port tag : Fin 64) (status : BitVec 2) (s : State) : Host.Outcome State Fault Refusal :=
  onPlaneS s (mempResponse port.val tag.val status.toNat)

/-! ## Host resets -/

/-- Every outstanding request completes with ERROR; new ones are held (R301). (log 118: DESIGN CHOICE, unsafe) -/
def mempHrst (n : Nat) (p : Plane) : Plane :=
  let rs := (getMP p n).reqs
  let p := setMP p n { getMP p n with hrst := true, stallRec := false }
  rs.foldl (fun p r => complete n false r p) p

def execMempHrst (port : Fin 64) (s : State) : Host.Outcome State Fault Refusal :=
  onPlaneS s (mempHrst port.val)

def mempRelease (n : Nat) (p : Plane) : Plane := goOn n (setMP p n { getMP p n with hrst := false })

def execMempHrstRelease (port : Fin 64) (s : State) : Host.Outcome State Fault Refusal :=
  onPlaneS s (mempRelease port.val)

/-- The credit exchange starts anew: none to send with, 512 for the fabric (R303). (log 120: DESIGN CHOICE, unsafe) -/
def colpHrst (n : Nat) (p : Plane) : Plane :=
  setCP p n { getCP p n with credits := 0, rxCredits := 512, rxHeld := [], stallRec := false }

def execColpHrst (port : Fin 16) (s : State) : Host.Outcome State Fault Refusal :=
  onPlaneS s (colpHrst port.val)

def colpCredit (n : Nat) (p : Plane) : Plane :=
  if !portsRun p then p
  else
    let c := getCP p n
    if c.credits < 4095 then
      drainTx (setCP p n { c with credits := c.credits + 1, stallRec := c.stallRec && c.txq.isEmpty }) n
    else portProtocol (collSrc n) n [] p

def execColpTxCredit (port : Fin 16) (s : State) : Host.Outcome State Fault Refusal :=
  onPlaneS s (colpCredit port.val)

/-- The output MEMP_n_IDLE (R298, R308). -/
def mempIdle (p : Plane) (n : Nat) : Bool := (getMP p n).reqs.isEmpty && (getMP p n).waiting.isEmpty

/-! ## Watchdogs (R320) -/

def portStallRec (src n : Nat) (tags : List Nat) (p : Plane) : Plane :=
  raise p .portStall src (partOfRegion p (src - 0x40)) (dPort n 0 tags 0) [.pl 2]

/-- 2^24 ROC counts without progress: recorded once for the stall. -/
def memStall (n : Nat) (p : Plane) : Plane :=
  let m := getMP p n
  if m.stallRec || (m.reqs.isEmpty && m.waiting.isEmpty) || (getRg p (n / 8)).quarantined then p
  else portStallRec (memSrc n) n (m.reqs.map PReq.tag) (setMP p n { m with stallRec := true })

def collStall (n : Nat) (p : Plane) : Plane :=
  let c := getCP p n
  if c.stallRec || c.txq.isEmpty || (getRg p (n / 2)).quarantined then p
  else portStallRec (collSrc n) n [] (setCP p n { c with stallRec := true })

/-- (log 119: DESIGN CHOICE, unsafe) -/
def portStall (r : PortRef) (p : Plane) : Plane :=
  match r with
  | .mem n => memStall n.val p
  | .coll n => collStall n.val p

def execPortStall (port : PortRef) (s : State) : Host.Outcome State Fault Refusal := onPlaneS s (portStall port)

end Sys2Proof.Machine
end

