-- ==== Sys2Proof/Machine/Pins.lean ====
section
/-! DEFINITION. Input lines (R306 to R308), voltage request (R317 to R319), margin, pacing and power
(R314 to R316), the oscillator check (R322), region parity (R260), lockstep (R263). -/

namespace Sys2Proof.Machine

/-- The control core runs and writes records (R263). -/
def coreRuns (p : Plane) : Bool := p.regs.state == .ready || p.regs.state == .halted

def setPins (p : Plane) (f : Pins → Pins) : Plane := { p with pins := f p.pins }

/-! ## Levels (R306 to R308, R316) -/

/-- Held packets leave once QUIESCE_N rises. -/
def quiesce (level : Bool) (p : Plane) : Plane :=
  let p := setPins p (fun x => { x with quiesceN := level })
  if level then (List.range 16).foldl drainTx p else p

def execQuiesceN (level : Bool) (s : State) : Host.Outcome State Fault Refusal := onPlaneS s (quiesce level)

def execPaceIn (level : BitVec 4) (s : State) : Host.Outcome State Fault Refusal :=
  onPlaneS s (fun p => paceLevels (setPins p (fun x => { x with paceIn := level })))

/-! ## Events (R306, R307) -/

/-- One event of a line: its record carries the edges that arrived in between, and clears their count. -/
def hostEvent (line edges : Nat) (p : Plane) : Plane :=
  let n := min 255 (spGetD p.pins.edges line 0 + edges)
  let p := setPins p (fun x => { x with edges := spSet 0 x.edges line 0 })
  raise p .hostEvent srcCore none (dPort line n [] 0) []

/-- A line that STUCK_INPUT made the Plane ignore raises nothing. (log 121: DESIGN CHOICE, unsafe) -/
def lineEvent (line edges : Nat) (f : Plane → Plane) (p : Plane) : Plane :=
  if !coreRuns p || p.pins.ignored.contains line then p else hostEvent line edges (f p)

/-- An orderly stop flushes the ledger, in HALTED too, where the control core goes on with records (R263, R336). -/
def powerWarn (p : Plane) : Plane := flush .orderlyStop [] (ledgerAdd p 25 1)

def execPwrWarn (edges : BitVec 8) (s : State) : Host.Outcome State Fault Refusal :=
  onPlaneS s (lineEvent 0 edges.toNat powerWarn)

/-- THERM_WARN is a level; each rise is recorded. -/
def thermWarn (level : Bool) (p : Plane) : Plane :=
  let rise := level && !p.pins.therm
  let p := setPins p (fun x => { x with therm := level })
  if rise && coreRuns p then hostEvent 1 0 (ledgerAdd p 24 1) else p

def execThermWarn (level : Bool) (s : State) : Host.Outcome State Fault Refusal := onPlaneS s (thermWarn level)

def evtNum : EvtLine → Nat
  | .l2 => 2
  | .l3 => 3
  | .l4 => 4
  | .l5 => 5
  | .l6 => 6
  | .l7 => 7

def stuckNum : StuckLine → Nat
  | .pwrWarn => 0
  | .evt l => evtNum l

def execHostEvent (line : EvtLine) (edges : BitVec 8) (s : State) : Host.Outcome State Fault Refusal :=
  onPlaneS s (lineEvent (evtNum line) edges.toNat id)

/-- High for 2^20 ROC counts: recorded once, then ignored. -/
def stuckInput (line : Nat) (p : Plane) : Plane :=
  if !coreRuns p || p.pins.ignored.contains line then p
  else
    let p := setPins p (fun x => { x with ignored := x.ignored ++ [line] })
    raise (ledgerAdd p 23 1) .stuckInput srcCore none (dPort line 0 [] 0) [.pl 2]

def execStuckInput (line : StuckLine) (s : State) : Host.Outcome State Fault Refusal :=
  onPlaneS s (stuckInput (stuckNum line))

/-- Low for 64 ROC counts: honoured again. -/
def stuckReleased (line : Nat) (p : Plane) : Plane :=
  setPins p (fun x => { x with ignored := x.ignored.filter (fun l => l != line) })

def execStuckInputReleased (line : StuckLine) (s : State) : Host.Outcome State Fault Refusal :=
  onPlaneS s (stuckReleased (stuckNum line))

/-- A change of TEST_MODE outside its sampling (R310). -/
def strapChange (p : Plane) : Plane :=
  if coreRuns p then raise p .strapChange srcCore none (dPort 0 0 [] 0) [] else p

def execStrapChange (s : State) : Host.Outcome State Fault Refusal := onPlaneS s strapChange

/-! ## The test port (R310) -/

/-- What the TAP offers in mission mode. -/
inductive TapReg where
  | bypass
  | idcode
  | margin (region : Fin 8)
  | oscillator (region : Fin 8)
deriving DecidableEq, Repr

/-- What a TAP register captures; BYPASS captures 0 (IEEE 1149.1). -/
def tapRead (p : Plane) : TapReg → Nat
  | .bypass => 0
  | .idcode => 1 + Config.jep106.toNat * 2 + 0x0064 * 2 ^ 12 + Config.revision.toNat * 2 ^ 28
  | .margin r => (getRg p r).slack
  | .oscillator r => (getRg p r).roc

/-! ## Voltage request (R317, R318) -/

/-- Every region's pacing level as it stands; it does not rise before VACK (R318). -/
def holdLevels (p : Plane) : Plane := forN 8 p (fun p r => modRg p r (fun x => { x with hold := regionLevel p r }))

/-- A wanted code: driven now, or after VACK. A lower one is asked for only once pacing is lower: R316 moved the duty
levels on the estimate that R319 acts on (log 145: DEDUCED, unsafe). -/
def requestCode (code : Nat) (p : Plane) : Plane :=
  if p.pins.changing then setPins p (fun x => { x with wanted := some code })
  else if code = p.pins.vreq then p
  else setPins (holdLevels p) (fun x => { x with
    vreqOld := x.vreq
    vreq := code
    changing := true })

/-- VACK rises after a change: it is confirmed, and the latest wanted code follows. -/
def vackRise (p : Plane) : Plane :=
  let w := p.pins.wanted
  let p := setPins p (fun x => { x with
    changing := false
    timedOut := false
    wanted := none
    vreqOld := x.vreq })
  match w with
  | some c => requestCode c p
  | none => p

def vack (level : Bool) (p : Plane) : Plane :=
  let p := setPins p (fun x => { x with vack := level })
  if level && p.pins.changing then vackRise p else p

def execVack (level : Bool) (s : State) : Host.Outcome State Fault Refusal := onPlaneS s (vack level)

/-- No VACK 2^20 ROC counts after a change: recorded once. -/
def vreqTimeout (p : Plane) : Plane :=
  if p.pins.changing && !p.pins.timedOut && coreRuns p then
    raise (ledgerAdd (setPins p (fun x => { x with timedOut := true })) 22 1) .vreqTimeout srcCore none
      (dPort 0 0 [] 0) []
  else p

def execVreqTimeout (s : State) : Host.Outcome State Fault Refusal := onPlaneS s vreqTimeout

/-- The code that counts for power: the lower one after VREQ_TIMEOUT (R318). -/
def powerCode (p : Plane) : Nat := if p.pins.timedOut then min p.pins.vreq p.pins.vreqOld else p.pins.vreq

/-! ## Margin (R314, R321) -/

/-- floor(256 (matched − canary) / matched), 0 to 255. -/
def slackCode (x : Nat × Nat) : Nat := min 255 (256 * (x.1 - x.2) / x.1)

def lowestSlack (l : List (Nat × Nat)) : Nat := l.foldl (fun n x => min n (slackCode x)) 255

def raiseCode (p : Plane) : Nat := min 208 (p.pins.vreq + 8)

/-- MARGIN_LOW of a region. (log 123: DESIGN CHOICE, unsafe) -/
def marginLow (r : Nat) (p : Plane) : Plane :=
  raise (ledgerAdd p (1280 + r) 1) .marginLow (0x40 + r) (partOfRegion p r) (dHw p r 0xFF 0 0) [.pl 3]

/-- The cap of a region: set below 16, lifted once the code has stayed at 48 or more for 2^16 ROC counts,
256 samples after the first. -/
def capStep (code : Nat) (x : Region) : Region :=
  if code < 16 then { x with capped := true, calm := 0 }
  else if code < 48 then { x with calm := 0 }
  else if x.capped && decide (x.calm < 256) then { x with calm := x.calm + 1 }
  else { x with capped := false, calm := 0 }

/-- A sample of a region's sensors. -/
def marginSample (r : Nat) (sensors : List (Nat × Nat)) (temp : Int) (p : Plane) : Plane :=
  if !coreRuns p then p
  else
    let code := lowestSlack sensors
    let p := modRg p r (fun x => capStep code { x with
      slack := code
      slackMin := min x.slackMin code
      slackLedger := min x.slackLedger code
      slackImage := min x.slackImage code
      temp := temp
      tempImage := max x.tempImage temp })
    if code < 16 then requestCode (raiseCode p) (marginLow r p) else p

def execMarginSample (region : Fin 8) (sensors : List (Nat × Nat)) (temp : Int) (s : State) :
    Host.Outcome State Fault Refusal :=
  onPlaneS s (marginSample region.val sensors temp)

/-! ## Pacing (R315, R316) -/

/-- A collective port of the region holds a flit without credit (R367). -/
def creditWait (p : Plane) (r : Nat) : Bool :=
  [2 * r, 2 * r + 1].any (fun n => decide ((getCP p n).credits = 0) && !(getCP p n).txq.isEmpty)

/-- The reference region's count runs everything that keeps time by it (R323). -/
def tickReference (r : Nat) (p : Plane) : Plane :=
  if p.pins.reference = r then ledgerAdd (setPins p (fun x => { x with refRoc := x.refRoc + 1 })) 8 1 else p

/-- One ROC count of a region. -/
def tokenRefill (r : Nat) (p : Plane) : Plane :=
  if p.regs.held ≠ .no then p
  else
    let l := regionLevel p r
    let p := modRg p r (fun x => { x with
      roc := x.roc + 1
      hold := min x.hold l
      tokens := min 8192 (x.tokens + (l + 1) * 16) })
    let p := if l < 15 then ledgerAdd p (1288 + r) 1 else p
    let p := if creditWait p r then stallR p r 3 1 else p
    tickReference r p

def execTokenRefill (region : Fin 8) (s : State) : Host.Outcome State Fault Refusal :=
  onPlaneS s (tokenRefill region.val)

/-- The power cap in W; none at PACE_IN 15. (log 122: DESIGN CHOICE, unsafe) -/
def powerCap (p : Plane) : Option Nat :=
  if p.pins.paceIn.toNat = 15 then none else some (40 + 60 * p.pins.paceIn.toNat)

def aboveCap (p : Plane) (watts : Nat) : Bool :=
  match powerCap p with
  | none => false
  | some c => decide (c < watts)

/-- Below num/den of the cap; with no cap, always. -/
def belowCap (p : Plane) (num den watts : Nat) : Bool :=
  match powerCap p with
  | none => true
  | some c => decide (den * watts < num * c)

def moveLevels (f : Nat → Nat) (p : Plane) : Plane :=
  forN 8 p (fun p r => modRg p r (fun x => { x with level := f x.level }))

/-- The power that firmware estimates. (log 122: DESIGN CHOICE, unsafe) -/
def estimate (p : Plane) : Nat := Config.power (powerCode p) ((List.range 8).map (fun r => (getRg p r).activity))

/-- Firmware's estimate, in hardware mode of the pacing duty. -/
def powerEstimate (p : Plane) : Plane :=
  if p.regs.state ≠ .ready ∨ bit p.duties.toNat 7 = true then p
  else
    let watts := estimate p
    let p := setPins p (fun x => { x with watts := watts })
    let p := forN 8 p (fun p r => modRg p r (fun x => { x with activity := 0 }))
    if aboveCap p watts then moveLevels (fun l => l - 1) p
    else if belowCap p 9 10 watts then moveLevels (fun l => min 15 (l + 1)) p
    else p

def execPowerEstimate (s : State) : Host.Outcome State Fault Refusal := onPlaneS s powerEstimate

/-! ## The next VREQ code (R319) -/

def regionsIn (p : Plane) : List Nat := upTo 8 (fun r => !(getRg p r).quarantined)

/-- The region in service with the lowest slack code, the lowest-numbered among equals. -/
def worstRegion (p : Plane) : Nat :=
  (regionsIn p).foldl (fun b r => if (getRg p r).slack < (getRg p b).slack then r else b) p.pins.reference

def raiseVreq (p : Plane) : Plane :=
  if p.pins.vreq = 208 then marginLow (worstRegion p) p else requestCode (raiseCode p) p

def lowerVreq (p : Plane) : Plane := requestCode (p.pins.vreq - 8) p

/-- The first rule of R319 that applies. -/
def vreqUpdate (p : Plane) : Plane :=
  let s := (getRg p (worstRegion p)).slack
  let hw := !bit p.duties.toNat 7
  if p.regs.state ≠ .ready then p
  else if s < 48 then raiseVreq p
  else if hw && aboveCap p p.pins.watts then lowerVreq p
  else if hw && belowCap p 17 20 p.pins.watts && decide (96 ≤ s) then raiseVreq p
  else if !hw && decide (104 < p.pins.vreq) && decide (96 ≤ s) then lowerVreq p
  else p

def execVreqUpdate (s : State) : Host.Outcome State Fault Refusal := onPlaneS s vreqUpdate

/-! ## Oscillators (R322) -/

def insNat (x : Nat) : List Nat → List Nat
  | [] => [x]
  | y :: t => if x ≤ y then x :: y :: t else y :: insNat x t

/-- Twice the median; of an even number of counts, the sum of the two in the middle (log 27: DESIGN CHOICE, unsafe). -/
def median2 (l : List Nat) : Nat :=
  let s := l.foldl (fun t x => insNat x t) []
  s.getD ((s.length - 1) / 2) 0 + s.getD (s.length / 2) 0

def rocAdvance (p : Plane) (r : Nat) : Nat := (getRg p r).roc - (getRg p r).rocCheck

/-- Below half, or above twice, the median. -/
def rocBad (m2 n : Nat) : Bool := decide (4 * n < m2) || decide (m2 < n)

def rocFault (p : Plane) (r : Nat) : Plane :=
  quarantine (raise p .rocFault (0x40 + r) (partOfRegion p r) (dHw p r 0xFF 0 0) []) r

def oscillatorCheck (p : Plane) : Plane :=
  if p.regs.state ≠ .ready then p
  else
    let rs := regionsIn p
    let m2 := median2 (rs.map (rocAdvance p))
    let bad := rs.filter (fun r => rocBad m2 (rocAdvance p r))
    let p := forN 8 p (fun p r => modRg p r (fun x => { x with rocCheck := x.roc }))
    bad.foldl rocFault p

def execOscillatorCheck (s : State) : Host.Outcome State Fault Refusal := onPlaneS s oscillatorCheck

/-! ## RGN_PARITY (R260, R262), LOCKSTEP (R263) -/

/-- A second error in one epoch quarantines the region. (log 124: DESIGN CHOICE, unsafe) -/
def rgnParity (r : Nat) (p : Plane) : Plane :=
  if p.regs.state ≠ .ready ∨ (getRg p r).quarantined = true then p
  else
    let n := (getRg p r).parity + 1
    let p := ledgerAdd (modRg p r (fun x => { x with parity := n })) (1296 + r) 1
    let p := raise p .rgnParity (0x40 + r) (partOfRegion p r) (dHw p r 0xFF 0 0) []
    if 2 ≤ n then quarantine p r else p

def execRgnParity (region : Fin 8) (s : State) : Host.Outcome State Fault Refusal :=
  onPlaneS s (rgnParity region.val)

/-- A LOCKSTEP mismatch, or (`ue`) an uncorrectable error in control-core state. -/
def lockstepError (ue : Bool) (p : Plane) : Plane :=
  if p.regs.state ≠ .ready then p
  else if ue then (tableErr none .core 0 true p).1
  else planeFatal p .lockstep (dHw p p.pins.reference 0xFF 0 0)

def execLockstep (ue : Bool) (s : State) : Host.Outcome State Fault Refusal := onPlaneS s (lockstepError ue)

end Sys2Proof.Machine
end

