-- ==== Sys2Proof/Machine/Startup.lean ====
section
/-! DEFINITION. Resets and the start-up sequence (R309, R337, R339 to R341, R348 to R358). -/

namespace Sys2Proof.Machine

/-! ## Reset inputs (R309, R358) -/

/-- A region: its count runs since PWR_OK; a quarantine survives only a warm reset. -/
def resetRegion (warm : Bool) (x : Region) : Region :=
  { Region.init with
    roc := x.roc
    rocCheck := x.rocCheck
    quarantined := warm && x.quarantined }

/-- Levels, VREQ and the reference region's count go on; edges and stuck lines are forgotten. (log 125: DESIGN CHOICE, unsafe) -/
def resetPins (p : Plane) (warm : Bool) : Pins :=
  { p.pins with
    edges := []
    ignored := []
    watts := 0
    reference := if warm then p.pins.reference else 0 }

/-- A reset may interrupt the program of the first queued record, which then leaves a torn slot, in the first-fault area
or in the ring (R309): which, and a torn slot's bytes, are free values. (log 113: DESIGN CHOICE, unsafe) -/
def tear (p : Plane) : BlackBox :=
  let b := { BlackBox.init with
    ring := p.bb.ring
    first := p.bb.first
    torn := p.bb.torn
    tornFirst := p.bb.tornFirst }
  match p.bb.queue with
  | [] => b
  | x :: _ =>
    let way := (Config.freeWord p.freeCtr).toNat % 3
    let slot := x.1.seq % ringSize
    if way = 0 ∨ (p.regs.state ≠ .ready ∧ p.regs.state ≠ .halted) then b
    else if way = 1 ∧ pins p x.1 = true then
      let bytes := (List.range 64).map (fun k => (Config.freeWord (p.freeCtr + 1 + k)).setWidth 8)
      { b with
        tornFirst := spPut b.tornFirst p.bb.pin bytes }
    else
      { b with
        ring := b.ring.filter (fun y => !erasedBy x.1.seq y)
        first := if pins p x.1 then spPut b.first p.bb.pin { x.1 with pinned := true } else b.first
        torn := addNew b.torn slot }

/-- What a reset with power held keeps: NVM, fuses, host memory, host-domain resets, and the rest of R358's
table. -/
def resetPlane (warm : Bool) (h : Held) (p : Plane) : Plane :=
  { Plane.init with
    regs := { Regs.init with held := h }
    regions := p.regions.map (fun r => (r.1, resetRegion warm r.2))
    pins := resetPins p warm
    memp := p.memp.map (fun m => (m.1, { MPort.init with hrst := m.2.hrst }))
    bb := tear p
    ledger := if warm then p.ledger else Ledger.init
    nvm := { p.nvm with
      writes := []
      started := false }
    fuses := p.fuses
    boot := { Boot.init with
      ledgerZero := warm && p.boot.ledgerZero
      kind := if warm then (if p.regs.state = .halted then 3 else 2) else 1
      fatal := p.boot.fatal || p.regs.state == .halted }
    mem := p.mem
    freeCtr := p.freeCtr + 65 }

/-- PWR_OK low: counts since PWR_OK, VREQ and the memory of a fatal state are lost as well; the levels of
the input lines stay. -/
def powerLoss (p : Plane) : Plane :=
  let q := resetPlane false .power p
  { q with
    regions := []
    nvm := { q.nvm with octal := false }
    pins := { Pins.init with
      quiesceN := p.pins.quiesceN
      paceIn := p.pins.paceIn
      therm := p.pins.therm
      vack := p.pins.vack }
    boot := Boot.init }

def coldReset (p : Plane) : Plane :=
  if p.regs.held = .power ∨ p.regs.held = .cold then p else resetPlane false .cold p

/-- No effect while another reset holds the Plane; start-up is one command (log 2: DESIGN CHOICE, unsafe). -/
def warmReset (p : Plane) : Plane := if p.regs.held = .no then resetPlane true .warm p else p

def execPowerLoss (s : State) : Host.Outcome State Fault Refusal := onPlane s powerLoss
def execColdReset (s : State) : Host.Outcome State Fault Refusal := onPlane s coldReset
def execWarmReset (s : State) : Host.Outcome State Fault Refusal := onPlane s warmReset

/-! ## Firmware images (R351) -/

def fwBase (b : Bool) : Nat := if b then 0x01000000 else 0

def fwNat (p : Plane) (b : Bool) (off n : Nat) : Nat := memNat 0xFF p.nvm.fw (fwBase b + off) n

def fwBytes (p : Plane) (b : Bool) (off n : Nat) : List Byte := memRead 0xFF p.nvm.fw (fwBase b + off) n

/-- The 32 bytes of a digest, big-endian. -/
def digestBytes (h : BitVec 256) : List Byte := beBytes 32 h.toNat

/-- An image verifies; its signature is checked outside the model (log 12: DESIGN CHOICE, safe). -/
def imageOk (p : Plane) (b : Bool) (signature : Bool) : Bool :=
  let size := fwNat p b 4 4
  fwNat p b 0 2 == 1 && decide (1 ≤ size) && decide (size ≤ 16773120)
    && Config.sha256 (fwBytes p b 48 64) == p.fuses.fwKeyHash && signature
    && decide (p.fuses.minRelease.toNat ≤ fwNat p b 8 4)
    && digestBytes (Config.sha256 (fwBytes p b 4096 size)) == fwBytes p b 16 32

/-- The choice of the boot ROM: the image that runs, if any, and which images have failed. -/
structure BootPick where
  run : Option Bool
  failA : Bool
  failB : Bool
deriving DecidableEq, Repr

/-- The higher SLOT_GEN first, A on a tie. -/
def pickImage (p : Plane) (e : StartEnv) : BootPick :=
  let a := imageOk p false e.signatureA
  let b := imageOk p true e.signatureB
  if fwNat p true 12 4 ≤ fwNat p false 12 4 then
    if a then ⟨some false, false, false⟩ else if b then ⟨some true, true, false⟩ else ⟨none, true, true⟩
  else
    if b then ⟨some true, false, false⟩ else if a then ⟨some false, false, true⟩ else ⟨none, true, true⟩

def pickFails (k : BootPick) : Nat := (if k.failA then 1 else 0) + (if k.failB then 1 else 0)

/-- 32 bytes, big-endian. -/
def beNat (bs : List Byte) : Nat := bs.foldl (fun n b => n * 256 + b.toNat) 0

def imageHashOf (p : Plane) (b : Bool) : BitVec 256 :=
  BitVec.ofNat 256 (beNat (memRead 0xFF p.nvm.fw (fwBase b + 16) 32))

/-! ## Fuses, fences, identity (R339 to R341, R353, R355) -/

def binEngines (p : Plane) : Nat :=
  match p.fuses.bin.toNat with
  | 0 => 64
  | 1 => 60
  | 2 => 56
  | _ => 0

/-- The bin's count of factory fences, no two in one region. -/
def factoryOk (p : Plane) : Bool :=
  p.fuses.bin.toNat != 3 && (upTo 64 (isFactory p)).length + binEngines p == 64
    && (List.range 8).all (fun r => decide (((regionEngines r).filter (isFactory p)).length ≤ 1))

def applyFieldFences (p : Plane) : Plane :=
  forN 64 p (fun p e =>
    if bit (cfgNow p).mask.toNat e then modPhys p e (fun x => { x with fieldFence := true }) else p)

/-- Both copies of a new identity record. (log 130: DESIGN CHOICE, unsafe) -/
def generateIdentity (p : Plane) : Plane :=
  let c : IdentCopy := ⟨1, p.fuses.serial, Config.publicKey p.freeCtr, Config.wrappedKey p.fuses.secret p.freeCtr⟩
  { p with
    freeCtr := p.freeCtr + 1
    nvm := { p.nvm with ident := [c, c] } }

/-! ## The ledger (R337) -/

def qualifies (p : Plane) (ok : List Nat) (f : Flushed) : Bool :=
  cntAt f.cnt 6 == p.fuses.serial.toNat % 2 ^ 64 && ok.contains (cntAt f.cnt 1)

/-- The qualifying slot with the highest FLUSH_SEQ. -/
def ledgerPick (p : Plane) (ok : List Nat) : Option (Nat × Flushed) :=
  (p.nvm.ledger.filter (fun s => qualifies p ok s.2)).foldl (fun a f =>
    match a with
    | none => some f
    | some b => if cntAt b.2.cnt 1 < cntAt f.2.cnt 1 then some f else some b) none

/-- The ledger at start-up, and whether it was kept and whether it starts at zero. -/
def loadLedger (warm : Bool) (e : StartEnv) (p : Plane) : Plane × Bool × Bool :=
  if warm && e.ledgerSramClean then (p, true, false)
  else
    match ledgerPick p e.ledgerSigOk with
    | some f => ({ p with ledger := ⟨f.2.cnt, f.2.hist, some f.1⟩ }, false, false)
    | none => ({ p with ledger := Ledger.init }, false, true)

/-! ## The black-box frontier (R325, R356) -/

/-- One above the highest SEQ of the ring and the first-fault area; 0 when both are blank. (log 6: DESIGN CHOICE, unsafe) -/
def nextSeqOf (b : BlackBox) : Nat :=
  (b.ring ++ b.first).foldl (fun n r => max n (r.2.seq + 1)) 0

/-- The first erased slot of the area: torn slots stay behind (R356). -/
def pinOf (b : BlackBox) : Nat := b.first.length + b.tornFirst.length

/-- The first SEQ from `n` on whose slot is not torn. -/
def pastTorn (torn : List Nat) : Nat → Nat → Nat
  | 0, n => n
  | k + 1, n => if torn.contains (n % ringSize) then pastTorn torn k (n + 1) else n

/-- The next SEQ; torn slots at the frontier are left behind, with the numbers that R328 gives them (R356; log 150: DEDUCED,
unsafe). -/
def frontier (p : Plane) : Plane :=
  { p with bb := { p.bb with
      nextSeq := pastTorn p.bb.torn p.bb.torn.length (nextSeqOf p.bb)
      pin := pinOf p.bb } }

/-! ## BIST (R350) -/

/-- A region that fails is quarantined with its engines fenced; nothing runs, so nothing rolls back. -/
def bistRegion (r : Nat) (p : Plane) : Plane :=
  if (getRg p r).quarantined then p
  else
    let p := ledgerAdd (modRg p r (fun x => { x with quarantined := true })) 30 1
    let p := match referenceOf p with
      | some q => setPins p (fun x => { x with reference := q })
      | none => p
    let p := raise p .quarantine (0x40 + r) (partOfRegion p r) (dHw p r 0xFF 0 p.pins.reference) (quarantineAck p r)
    ((regionEngines r).filter (fun e => !isFactory p e)).foldl (fun p e => markFence p e none 0) p

def bistEngine (e : Nat) (p : Plane) : Plane :=
  if isFactory p e then p
  else
    let p := markFence p e none 0
    if 4 ≤ fencedIn p (e / 8) then bistRegion (e / 8) p else p

def bistFail (p : Plane) (b : BistFail) : Plane :=
  match b with
  | .engine e => bistEngine e.val p
  | .region r => bistRegion r.val p
  | .plane => p

/-- BIST outcome of R357. -/
def bistCode (warm : Bool) (l : List BistFail) : Nat :=
  if warm then 4
  else l.foldl (fun n b => max n (match b with
    | .engine _ => 1
    | .region _ => 2
    | .plane => 3)) 0

/-! ## Placement, power states, partition 0 (R279, R354, steps 8 and 12) -/

/-- Virtual engine `v` on its host. -/
def hostAt (p : Plane) (h : Nat × Nat) : Plane :=
  if (getV p h.1).host = h.2 then p else modV p h.1 (fun x => { x with host := h.2 })

def powerUp (p : Plane) : Plane :=
  forN 64 p (fun p e => modPhys p e (fun x => { x with
    power := if isFenced p e then .gated else .active
    cur := (hostedOn p e).headD e }))

/-- An engine hosts at most two; a partition without room stops (R261). (log 129: DESIGN CHOICE, unsafe) -/
def roomless (p : Plane) : Bool :=
  (List.range 64).any (fun e => decide (2 < (hostedOn p e).length) || (isFenced p e && !(hostedOn p e).isEmpty))

def placeAll (p : Plane) : Plane :=
  let p := (placement p (List.range 64)).foldl hostAt p
  let p := modP p 0 (fun x => { x with imageRoc := p.pins.refRoc })
  if roomless p && (getP p 0).halted.isNone then haltPart p 0 .down .partDown 1 0 else p

/-! ## The BOOT record (R357) -/

/-- What the BOOT record says of the sequence. -/
structure BootNote where
  slot : Nat
  pick : BootPick
  generated : Bool
  identityBad : Bool
  ledgerReset : Bool
  ledgerKept : Bool
  release : Nat
  bist : Nat
deriving DecidableEq, Repr

def bootDetail (p : Plane) (n : BootNote) (roc : BitVec 32) : List Byte :=
  let flags := b2n n.pick.failA + b2n n.pick.failB * 2 + b2n n.generated * 4 + b2n n.identityBad * 8
    + b2n n.ledgerReset * 16 + b2n n.ledgerKept * 32
  toLE 1 p.boot.kind ++ toLE 1 n.slot ++ toLE 1 flags ++ toLE 1 (64 - popCount (fencedMask p).toNat)
    ++ toLE 4 n.release ++ toLE 8 (fencedMask p).toNat ++ toLE 8 p.fuses.factoryFence.toNat
    ++ toLE 1 (forN 8 0 (fun m r => if (getRg p r).quarantined then m + 2 ^ r else m)) ++ toLE 1 (binEngines p)
    ++ toLE 1 n.bist ++ zeros 1 ++ toLE 4 roc.toNat ++ zeros 4

/-- Records of the sequence are in NVM before it goes on. -/
def programAll (p : Plane) : Plane :=
  let q := p.bb.queue
  q.foldl programRec { p with bb := { p.bb with queue := [] } }

def bootRecord (n : BootNote) (roc : BitVec 32) (p : Plane) : Plane :=
  programAll (raise p .boot srcCore none (bootDetail p n roc) [])

/-- Ledger counters 9 to 15 and 26 (step 11, R340). -/
def bootCounts (n : BootNote) (p : Plane) : Plane :=
  let k := p.boot.kind
  let p := ledgerAdd p (if k = 0 then 9 else if k = 1 then 10 else 11) 1
  let p := if p.boot.fatal then ledgerAdd { p with boot := { p.boot with fatal := false } } 12 1 else p
  let p := ledgerAdd p (if n.slot = 0 then 13 else 14) 1
  let p := if pickFails n.pick = 0 then p else ledgerAdd p 15 (pickFails n.pick)
  if n.generated then ledgerAdd p 26 1 else p

/-! ## The sequence (R348, R349) -/

def setStateOf (x : PlState) (p : Plane) : Plane := { p with regs := { p.regs with state := x } }

def release (p : Plane) : Plane := { p with regs := { p.regs with held := .no } }

/-- Steps 3 and 5: the port runs in 8D-8D-8D mode, firmware `b` runs (R305, R349, R351). -/
def runImage (b : Bool) (p : Plane) : Plane :=
  { p with
    nvm := { p.nvm with octal := true }
    regs := { p.regs with
      fwslot := if b then 1 else 0
      release := BitVec.ofNat 32 (fwNat p b 8 4) }
    boot := { p.boot with imageHash := imageHashOf p b } }

/-- Step 6 once factory fencing is as the bin has it: field fences, placement, the identity. -/
def identify (bad : Bool) (p : Plane) : Plane :=
  let p := placeAll (applyFieldFences p)
  let p := if p.nvm.ident.isEmpty then generateIdentity p else p
  { p with boot := { p.boot with identityBad := bad } }

/-- Steps 7 to 12. -/
def startFirmware (warm : Bool) (e : StartEnv) (k : BootPick) (b gen bad : Bool) (p : Plane) : Plane :=
  let p := { p with boot := { p.boot with bist := bistCode warm e.bist } }
  let l := loadLedger warm e p
  let p := frontier l.1
  let p := if bad then raise p .identityBad srcCore none [] [] else p
  let p := if warm then p else placeAll (e.bist.foldl bistFail p)
  let p := if l.2.2 then raise p .ledgerReset srcCore none [] [] else p
  let p := { p with boot := { p.boot with ledgerZero := p.boot.ledgerZero || l.2.2 } }
  let n : BootNote := ⟨b2n b, k, gen, bad, l.2.2, l.2.1, p.regs.release.toNat, p.boot.bist⟩
  let p := setStateOf .ready (powerUp (bootCounts n (bootRecord n e.startRoc p)))
  if (referenceOf p).isNone then planeFatal p .quarantine (dHw p 0xFF 0xFF 0 0) else p

/-- Both images failed: the boot ROM's BOOT record, FATAL. (log 127: DESIGN CHOICE, unsafe) -/
def bothFailed (e : StartEnv) (k : BootPick) (p : Plane) : Plane :=
  let n : BootNote := ⟨0xFF, k, false, false, false, false, 0, 4⟩
  setStateOf .fatal (bootRecord n e.startRoc (frontier { p with nvm := { p.nvm with octal := true } }))

/-- Every step; a failure in step 2, 5 or 6, or of a plane-level array, ends in FATAL (R350). (log 128: DESIGN CHOICE, unsafe) -/
def sequence (warm : Bool) (e : StartEnv) (p : Plane) : Plane :=
  let p := release p
  let k := pickImage p e
  if !e.selfCheckOk then setStateOf .fatal p
  else
    match k.run with
    | none => bothFailed e k p
    | some b =>
      let p := runImage b p
      if !factoryOk p then setStateOf .fatal p
      else
        let gen := p.nvm.ident.isEmpty
        let bad := !gen && !e.identityUnwraps
        let p := identify bad p
        if !warm && e.bist.contains .plane then setStateOf .fatal p else startFirmware warm e k b gen bad p

/-- COLD_START from power or from a cold reset; TEST_MODE is sampled first (R310). (log 126: DESIGN CHOICE, safe) -/
def coldStart (e : StartEnv) (p : Plane) : Plane :=
  if (p.regs.held = .power ∧ e.fromPower = true) ∨ (p.regs.held = .cold ∧ e.fromPower = false) then
    let p := setPins p (fun x => { x with testMode := e.testMode })
    let p := { p with boot := { p.boot with kind := if e.fromPower then 0 else 1 } }
    if e.testMode then setStateOf .test (release p) else sequence false e p
  else p

def warmStart (e : StartEnv) (p : Plane) : Plane := if p.regs.held = .warm then sequence true e p else p

def execColdStart (e : StartEnv) (s : State) : Host.Outcome State Fault Refusal := onPlaneS s (coldStart e)
def execWarmStart (e : StartEnv) (s : State) : Host.Outcome State Fault Refusal := onPlaneS s (warmStart e)

end Sys2Proof.Machine
end

