-- ==== Sys2Proof/Machine/Dispatch.lean ====
section
/-! DEFINITION. The dispatch: one arm per command. -/

namespace Sys2Proof.Machine

def exec (i : Instr) (s : State) : Host.Outcome State Fault Refusal :=
  match i with
  | .mma u f => Sys2Proof.Machine.execMma u f s
  | .ldw u f => Sys2Proof.Machine.execLdw u f s
  | .conv u f => Sys2Proof.Machine.execConv u f s
  | .ewiseMov u f => Sys2Proof.Machine.execEwiseMov u f s
  | .ewiseAdd u f => Sys2Proof.Machine.execEwiseAdd u f s
  | .ewiseSub u f => Sys2Proof.Machine.execEwiseSub u f s
  | .ewiseMul u f => Sys2Proof.Machine.execEwiseMul u f s
  | .redSum u f => Sys2Proof.Machine.execRedSum u f s
  | .redMax u f => Sys2Proof.Machine.execRedMax u f s
  | .redMin u f => Sys2Proof.Machine.execRedMin u f s
  | .updDiagonal u f => Sys2Proof.Machine.execUpdDiagonal u f s
  | .updBlockMatrix u f k => Sys2Proof.Machine.execUpdBlockMatrix u f k s
  | .load u f => Sys2Proof.Machine.execLoad u f s
  | .store u f => Sys2Proof.Machine.execStore u f s
  | .xload u f => Sys2Proof.Machine.execXload u f s
  | .xstore u f => Sys2Proof.Machine.execXstore u f s
  | .xsend u f => Sys2Proof.Machine.execXsend u f s
  | .square u f => Sys2Proof.Machine.execSquare u f s
  | .streamStart u f => Sys2Proof.Machine.execStreamStart u f s
  | .rowInstall u f => Sys2Proof.Machine.execRowInstall u f s
  | .rowEvict u f => Sys2Proof.Machine.execRowEvict u f s
  | .xtload u f => Sys2Proof.Machine.execXtload u f s
  | .xtstore u f => Sys2Proof.Machine.execXtstore u f s
  | .rsX u f => Sys2Proof.Machine.execRsX u f s
  | .arX u f => Sys2Proof.Machine.execArX u f s
  | .ag u f => Sys2Proof.Machine.execAg u f s
  | .bc u f => Sys2Proof.Machine.execBc u f s
  | .maxr u f => Sys2Proof.Machine.execMaxr u f s
  | .minr u f => Sys2Proof.Machine.execMinr u f s
  | .arC u f => Sys2Proof.Machine.execArC u f s
  | .pre u f => Sys2Proof.Machine.execPre u f s
  | .digxSum u f => Sys2Proof.Machine.execDigxSum u f s
  | .digxAll u f => Sys2Proof.Machine.execDigxAll u f s
  | .status u f => Sys2Proof.Machine.execStatus u f s
  | .maxx u f => Sys2Proof.Machine.execMaxx u f s
  | .ringSeq u f place => Sys2Proof.Machine.execRingSeq u f place s
  | .ringTurn u f place => Sys2Proof.Machine.execRingTurn u f place s
  | .ringSend u f => Sys2Proof.Machine.execRingSend u f s
  | .ringRecv u f => Sys2Proof.Machine.execRingRecv u f s
  | .ringMcast u f => Sys2Proof.Machine.execRingMcast u f s
  | .hqPut u f => Sys2Proof.Machine.execHqPut u f s
  | .hqGet u f => Sys2Proof.Machine.execHqGet u f s
  | .crossArrive u cid mreg => Sys2Proof.Machine.execCrossArrive u cid mreg s
  | .crossWait u cid => Sys2Proof.Machine.execCrossWait u cid s
  | .swap u => Sys2Proof.Machine.execSwap u s
  | .wait u tmask => Sys2Proof.Machine.execWait u tmask s
  | .ctxSnapshot u f => Sys2Proof.Machine.execCtxSnapshot u f s
  | .ctxReset u f => Sys2Proof.Machine.execCtxReset u f s
  | .sealClose u dreg => Sys2Proof.Machine.execSealClose u dreg s
  | .sealAwait u => Sys2Proof.Machine.execSealAwait u s
  | .br u f => Sys2Proof.Machine.execBr u f s
  | .loop u f => Sys2Proof.Machine.execLoop u f s
  | .aluAdd u f => Sys2Proof.Machine.execAluAdd u f s
  | .aluSub u f => Sys2Proof.Machine.execAluSub u f s
  | .aluMul u f => Sys2Proof.Machine.execAluMul u f s
  | .aluAnd u f => Sys2Proof.Machine.execAluAnd u f s
  | .aluOr u f => Sys2Proof.Machine.execAluOr u f s
  | .aluXor u f => Sys2Proof.Machine.execAluXor u f s
  | .aluShl u f => Sys2Proof.Machine.execAluShl u f s
  | .aluShr u f => Sys2Proof.Machine.execAluShr u f s
  | .aluSar u f => Sys2Proof.Machine.execAluSar u f s
  | .aluMin u f => Sys2Proof.Machine.execAluMin u f s
  | .aluMax u f => Sys2Proof.Machine.execAluMax u f s
  | .aluMinu u f => Sys2Proof.Machine.execAluMinu u f s
  | .aluMaxu u f => Sys2Proof.Machine.execAluMaxu u f s
  | .aluInshi u f => Sys2Proof.Machine.execAluInshi u f s
  | .aluRdspec u f => Sys2Proof.Machine.execAluRdspec u f s
  | .aluHnd u f => Sys2Proof.Machine.execAluHnd u f s
  | .setp u f => Sys2Proof.Machine.execSetp u f s
  | .yield u => Sys2Proof.Machine.execYield u s
  | .halt u => Sys2Proof.Machine.execHalt u s
  | .instructionComplete id ev => Sys2Proof.Machine.execInstructionComplete id ev s
  | .crossArriveComplete cid veng => Sys2Proof.Machine.execCrossArriveComplete cid veng s
  | .crossingRelease c => Sys2Proof.Machine.execCrossingRelease c s
  | .crossStall cid => Sys2Proof.Machine.execCrossStall cid s
  | .packetLanding port p rx ev errs => Sys2Proof.Machine.execPacketLanding port p rx ev errs s
  | .ackReceive port p rx => Sys2Proof.Machine.execAckReceive port p rx s
  | .collTimeout sent => Sys2Proof.Machine.execCollTimeout sent s
  | .squareClose veng sq ev => Sys2Proof.Machine.execSquareClose veng sq ev s
  | .squareUndeclared run => Sys2Proof.Machine.execSquareUndeclared run s
  | .squareStall veng slot => Sys2Proof.Machine.execSquareStall veng slot s
  | .pageIn ctx => Sys2Proof.Machine.execPageIn ctx s
  | .groupSpill veng grp ev => Sys2Proof.Machine.execGroupSpill veng grp ev s
  | .groupRestore veng grp fails => Sys2Proof.Machine.execGroupRestore veng grp fails s
  | .gatherRowArrive stream fails => Sys2Proof.Machine.execGatherRowArrive stream fails s
  | .scatterAddBuffer stream ev fails => Sys2Proof.Machine.execScatterAddBuffer stream ev fails s
  | .ringBufferPass veng odd => Sys2Proof.Machine.execRingBufferPass veng odd s
  | .ringLag veng => Sys2Proof.Machine.execRingLag veng s
  | .mutualWaitBreak part cycle => Sys2Proof.Machine.execMutualWaitBreak part cycle s
  | .holdFull part => Sys2Proof.Machine.execHoldFull part s
  | .implicitClose part => Sys2Proof.Machine.execImplicitClose part s
  | .milestoneForm part => Sys2Proof.Machine.execMilestoneForm part s
  | .sealSummaryMerge part => Sys2Proof.Machine.execSealSummaryMerge part s
  | .sealVerdict part verified => Sys2Proof.Machine.execSealVerdict part verified s
  | .sealStall part => Sys2Proof.Machine.execSealStall part s
  | .restartReady gslot rank => Sys2Proof.Machine.execRestartReady gslot rank s
  | .restartStall part => Sys2Proof.Machine.execRestartStall part s
  | .openSession m => Sys2Proof.Machine.execOpenSession m s
  | .closeSession m => Sys2Proof.Machine.execCloseSession m s
  | .partitionSet m => Sys2Proof.Machine.execPartitionSet m s
  | .ctxDefineConversion m fails => Sys2Proof.Machine.execCtxDefineConversion m fails s
  | .ctxDefineUpdate m fails => Sys2Proof.Machine.execCtxDefineUpdate m fails s
  | .ctxRelease m fails => Sys2Proof.Machine.execCtxRelease m fails s
  | .tableLoadActivation m fails => Sys2Proof.Machine.execTableLoadActivation m fails s
  | .tableLoadScale m fails => Sys2Proof.Machine.execTableLoadScale m fails s
  | .tableLoadCoefficient m fails => Sys2Proof.Machine.execTableLoadCoefficient m fails s
  | .setDuty m => Sys2Proof.Machine.execSetDuty m s
  | .txnBegin m => Sys2Proof.Machine.execTxnBegin m s
  | .txnCommit m => Sys2Proof.Machine.execTxnCommit m s
  | .txnAbort m => Sys2Proof.Machine.execTxnAbort m s
  | .keySet m => Sys2Proof.Machine.execKeySet m s
  | .programLoad m fails => Sys2Proof.Machine.execProgramLoad m fails s
  | .taskStart m => Sys2Proof.Machine.execTaskStart m s
  | .taskStop m => Sys2Proof.Machine.execTaskStop m s
  | .peerUpdate m fails => Sys2Proof.Machine.execPeerUpdate m fails s
  | .sealQuery m => Sys2Proof.Machine.execSealQuery m s
  | .commitPolicySet m => Sys2Proof.Machine.execCommitPolicySet m s
  | .commitPolicyContinue m => Sys2Proof.Machine.execCommitPolicyContinue m s
  | .commitPolicyRollback m => Sys2Proof.Machine.execCommitPolicyRollback m s
  | .commitPolicyCommit m => Sys2Proof.Machine.execCommitPolicyCommit m s
  | .commitPolicyResume m => Sys2Proof.Machine.execCommitPolicyResume m s
  | .replaySegment m fails => Sys2Proof.Machine.execReplaySegment m fails s
  | .fenceEngine m => Sys2Proof.Machine.execFenceEngine m s
  | .unfenceEngine m => Sys2Proof.Machine.execUnfenceEngine m s
  | .scanEngine m => Sys2Proof.Machine.execScanEngine m s
  | .scanComplete res => Sys2Proof.Machine.execScanComplete res s
  | .blackboxRead m fails => Sys2Proof.Machine.execBlackboxRead m fails s
  | .ledgerRead m fails => Sys2Proof.Machine.execLedgerRead m fails s
  | .marginReport m => Sys2Proof.Machine.execMarginReport m s
  | .timeNote m => Sys2Proof.Machine.execTimeNote m s
  | .attest m fails => Sys2Proof.Machine.execAttest m fails s
  | .badVerb m => Sys2Proof.Machine.execBadVerb m s
  | .mbxDb m data => Sys2Proof.Machine.execMbxDb m data s
  | .mbxRspHead m data => Sys2Proof.Machine.execMbxRspHead m data s
  | .mbxStatus m data => Sys2Proof.Machine.execMbxStatus m data s
  | .plNcause data => Sys2Proof.Machine.execPlNcause data s
  | .plPncause part data => Sys2Proof.Machine.execPlPncause part data s
  | .baseRegisterWrite reg data => Sys2Proof.Machine.execBaseRegisterWrite reg data s
  | .registerWrite addr be data => Sys2Proof.Machine.execRegisterWrite addr be data s
  | .sessionDetach session => Sys2Proof.Machine.execSessionDetach session s
  | .mempResponse port tag status => Sys2Proof.Machine.execMempResponse port tag status s
  | .mempHrst port => Sys2Proof.Machine.execMempHrst port s
  | .colpHrst port => Sys2Proof.Machine.execColpHrst port s
  | .colpTxCredit port => Sys2Proof.Machine.execColpTxCredit port s
  | .portStall port => Sys2Proof.Machine.execPortStall port s
  | .powerLoss => Sys2Proof.Machine.execPowerLoss s
  | .coldReset => Sys2Proof.Machine.execColdReset s
  | .warmReset => Sys2Proof.Machine.execWarmReset s
  | .coldStart e => Sys2Proof.Machine.execColdStart e s
  | .warmStart e => Sys2Proof.Machine.execWarmStart e s
  | .strapChange => Sys2Proof.Machine.execStrapChange s
  | .quiesceN level => Sys2Proof.Machine.execQuiesceN level s
  | .paceIn level => Sys2Proof.Machine.execPaceIn level s
  | .pwrWarn edges => Sys2Proof.Machine.execPwrWarn edges s
  | .thermWarn level => Sys2Proof.Machine.execThermWarn level s
  | .hostEvent line edges => Sys2Proof.Machine.execHostEvent line edges s
  | .stuckInput line => Sys2Proof.Machine.execStuckInput line s
  | .vack level => Sys2Proof.Machine.execVack level s
  | .vreqTimeout => Sys2Proof.Machine.execVreqTimeout s
  | .vreqUpdate => Sys2Proof.Machine.execVreqUpdate s
  | .marginSample region sensors temp => Sys2Proof.Machine.execMarginSample region sensors temp s
  | .tokenRefill region => Sys2Proof.Machine.execTokenRefill region s
  | .powerEstimate => Sys2Proof.Machine.execPowerEstimate s
  | .oscillatorCheck => Sys2Proof.Machine.execOscillatorCheck s
  | .rgnParity region => Sys2Proof.Machine.execRgnParity region s
  | .lockstep u => Sys2Proof.Machine.execLockstep u s
  | .engineIdleTimeout engine => Sys2Proof.Machine.execEngineIdleTimeout engine s
  | .drainComplete engine => Sys2Proof.Machine.execDrainComplete engine s
  | .engineWake engine => Sys2Proof.Machine.execEngineWake engine s
  | .wakeComplete engine => Sys2Proof.Machine.execWakeComplete engine s
  | .recordProgrammed => Sys2Proof.Machine.execRecordProgrammed s
  | .nvmUnitRetired unit => Sys2Proof.Machine.execNvmUnitRetired unit s
  | .ledgerSample => Sys2Proof.Machine.execLedgerSample s
  | .ledgerFlush reason => Sys2Proof.Machine.execLedgerFlush reason s
  | .mempHrstRelease port => Sys2Proof.Machine.execMempHrstRelease port s
  | .stuckInputReleased line => Sys2Proof.Machine.execStuckInputReleased line s
  | .nvmProgramComplete => Sys2Proof.Machine.execNvmProgramComplete s
  | .nvmInstrumentAccess write off data => Sys2Proof.Machine.execNvmInstrumentAccess write off data s
  | .seqFault engine => Sys2Proof.Machine.execSeqFault engine s

end Sys2Proof.Machine
end

