-- ==== Sys2Proof/Safety.lean ====
section
/-! DEFINITION. What a safe run is, and the terms the claims use: memories that keep their form, what the
sequencer of an engine leaves alone, what an instruction in flight carries. -/

namespace Sys2Proof.Machine

/-- Every byte memory of the Plane is canonical. -/
def memsWf (p : Plane) : Prop :=
  Memory.wf 0 p.mem = true ∧ Memory.wf 0 p.mbxMem = true ∧ Memory.wf 0xFF p.nvm.fw = true

/-- A step is safe when it neither faults nor is refused. -/
def StepSafe (s : State) : Prop := ∃ t, step s = .next t

/-! ## Reading a task -/

def regAt (p : Plane) (i : Issue) (r : BitVec 5) : Nat := rGet (getT p i.veng.val i.slot.val).regs r
def predAt (p : Plane) (i : Issue) (k : BitVec 3) : Bool := pGet (getT p i.veng.val i.slot.val).regs k
def taskAt (p : Plane) (i : Issue) : Task := getT p i.veng.val i.slot.val

/-- Program position of a task: its PC and the loops that run. -/
def flowAt (p : Plane) (i : Issue) : Nat × List LoopE := ((taskAt p i).regs.pc, (taskAt p i).regs.loops)

/-- Position after the next instruction in line, loops included (R184). -/
def nextFlow (p : Plane) (i : Issue) : Nat × List LoopE :=
  let r := loopWrap (taskAt p i).regs.loops ((taskAt p i).regs.pc + 1)
  (r.2, r.1)

/-- One byte of host memory. -/
def hostByte (p : Plane) (a : Nat) : Byte := memGet 0 p.mem a

/-! ## Frames -/

/-- An engine without its task slots, its round-robin position and its stall counters. -/
def VEng.data (x : VEng) : VEng := { x with tasks := [], rr := [], stalls := [] }

/-- What a sequencer's own marks leave alone: all but task slots, round-robin positions, stall counters, the
current virtual engine, the tokens and activity of a region and the epochs' marks. -/
structure SeqFrame (p q : Plane) : Prop where
  rest : q = { p with vengs := q.vengs, parts := q.parts, phys := q.phys, regions := q.regions }
  engines : ∀ v, (getV q v).data = (getV p v).data
  parts : ∀ i, { getP q i with epochs := [] } = { getP p i with epochs := [] }
  phys : ∀ e, { getPhys q e with cur := 0 } = { getPhys p e with cur := 0 }
  regions : ∀ r, { getRg q r with stalls := [], tokens := 0, activity := 0 }
    = { getRg p r with stalls := [], tokens := 0, activity := 0 }

/-- What an issue leaves alone before its effect: as `SeqFrame`, but the instruction joins those in flight and the
contexts it names move in the order of use. -/
structure IssueFrame (p q : Plane) : Prop where
  rest : q = { p with
    vengs := q.vengs
    parts := q.parts
    phys := q.phys
    regions := q.regions
    flights := q.flights
    nextId := q.nextId
    gaz := { p.gaz with lru := q.gaz.lru } }
  engines : ∀ v, (getV q v).data = (getV p v).data
  parts : ∀ i, { getP q i with epochs := [] } = { getP p i with epochs := [] }
  phys : ∀ e, { getPhys q e with cur := 0 } = { getPhys p e with cur := 0 }
  regions : ∀ r, { getRg q r with stalls := [], tokens := 0, activity := 0 }
    = { getRg p r with stalls := [], tokens := 0, activity := 0 }

/-- Every task but one is as it was. -/
def OtherTasks (p q : Plane) (i : Issue) : Prop :=
  ∀ v s, v ≠ i.veng.val ∨ s ≠ i.slot.val → getT q v s = getT p v s

/-- Registers and predicates of the issuing task are as they were. -/
def SameRegs (p q : Plane) (i : Issue) : Prop :=
  (∀ r, regAt q i r = regAt p i r) ∧ ∀ k, predAt q i k = predAt p i k

/-- The issuing task goes on: its registers and predicates stay, its PC is the next in line, other tasks stay. -/
def GoesOn (p q : Plane) (i : Issue) : Prop :=
  SameRegs p q i ∧ flowAt q i = nextFlow p i ∧ OtherTasks p q i

/-- Host memory, mailbox memory and the NVM's bytes are as they were. -/
def SameMemory (p q : Plane) : Prop :=
  (∀ a, hostByte q a = hostByte p a) ∧ q.mbxMem = p.mbxMem ∧ q.nvm = p.nvm

/-- Host memory outside a range is as it was. -/
def SameOutside (p q : Plane) (inside : Nat → Prop) : Prop := ∀ a, ¬ inside a → hostByte q a = hostByte p a

/-- One instruction has joined those in flight. -/
def Joins (p q : Plane) (f : Flight) : Prop := q.flights = p.flights ++ [f] ∧ f.id = p.nextId ∧ q.nextId = p.nextId + 1

end Sys2Proof.Machine
end

