-- ==== Sys2Proof/WellFormed.lean ====
section
/-! DEFINITION. Which commands the surroundings can send: the checks on the operands that their types do
not make. -/

namespace Sys2Proof

/-- A control-port write: an 8 B word address, all enables for the register window (R304). -/
def wfWrite (addr : BitVec 21) (be : BitVec 8) : Bool :=
  decide (addr.toNat % 8 = 0) && (decide (0x10000 ≤ addr.toNat) || decide (be = 0xFF#8))

/-- A packet carries at most 16 KiB (R223). -/
def wfPacket (k : Packet) : Bool := decide (k.payload.length ≤ 16384)

/-- Four margin sensors, each a matched delay that is not 0 (R314), and a temperature in range (R321). -/
def wfSample (sensors : List (Nat × Nat)) (temp : Int) : Bool :=
  decide (sensors.length = 4) && sensors.all (fun x => decide (0 < x.1)) && decide (-40 ≤ temp)
    && decide (temp ≤ 150)

/-- The NVM instrument reaches the firmware regions and the scan pattern store (R351). -/
def wfNvm (off n : Nat) : Bool :=
  decide (off + n ≤ 0x02000000) || (decide (0x16400000 ≤ off) && decide (off + n ≤ 0x56400000))

/-- Errors of one instruction name rows of the Plaza (R99). -/
def wfEvents (ev : List ArrayEvent) : Bool := ev.all (fun e => decide (e.row.toNat < 1280))

def Instr.wf : Instr → Bool
  | .mma i _ => wfEvents i.ev
  | .conv i _ => wfEvents i.ev
  | .redSum i _ => wfEvents i.ev
  | .xstore i _ => wfEvents i.ev
  | .xtstore i _ => wfEvents i.ev
  | .xsend i _ => wfEvents i.ev
  | .rsX i _ => wfEvents i.ev
  | .arX i _ => wfEvents i.ev
  | .instructionComplete _ ev => wfEvents ev
  | .squareClose _ _ ev => wfEvents ev
  | .groupSpill _ _ ev => wfEvents ev
  | .packetLanding _ k _ ev _ => wfPacket k && wfEvents ev
  | .ackReceive _ k _ => wfPacket k
  | .mutualWaitBreak _ c => decide (c ≠ [])
  | .registerWrite a be _ => wfWrite a be
  | .marginSample _ l t => wfSample l t
  | .nvmInstrumentAccess _ off d => wfNvm off.toNat d.length
  | _ => true

end Sys2Proof
end

