-- ==== Sys2Proof/Certificates/Slice0/Obligations.lean ====
section
/-! DEFINITION. The statements about the model that are to be proved. -/

open Sys2Proof Sys2Proof.Machine

/-! ## Vocabulary of the statements -/

namespace Sys2Proof.Claims

/-- An instruction can issue, and no storage error meets it. -/
def Ready (c : Instr) (i : Issue) (plan : Plane → Env → Plan) (pi : Nat) (p : Plane) : Prop :=
  canIssue c i plan pi p = true ∧ i.errs = []

/-- And no error of the array or the Plaza. -/
def Clean (c : Instr) (i : Issue) (plan : Plane → Env → Plan) (pi : Nat) (p : Plane) : Prop :=
  Ready c i plan pi p ∧ i.ev = []

/-- The word at the slot's PC has arrived and spells the instruction, and its guard holds: the head check reads it
(R167, R192). -/
structure Reaches (c : Instr) (i : Issue) (pi : Nat) (p : Plane) : Prop where
  gate : gate p i = .go pi
  pc : (taskAt p i).regs.pc < ninsnOf p i.veng.val
  word : spells c i pi p = true
  guard : guardOff (taskAt p i).regs i = false

/-- The queue is as it was. -/
def SameQueue (s t : State) : Prop := t.pending = s.pending

/-- The operation of each two-operand row of R183, on s[SA] and b. -/
def aluOp : Instr → Option (Issue × AluF × (U64 → U64 → U64))
  | .aluAdd i f => some (i, f, fun a b => a + b)
  | .aluSub i f => some (i, f, fun a b => a - b)
  | .aluMul i f => some (i, f, fun a b => a * b)
  | .aluAnd i f => some (i, f, fun a b => a &&& b)
  | .aluOr i f => some (i, f, fun a b => a ||| b)
  | .aluXor i f => some (i, f, fun a b => a ^^^ b)
  | .aluShl i f => some (i, f, fun a b => BitVec.ofNat 64 (a.toNat * 2 ^ (b.toNat % 64)))
  | .aluShr i f => some (i, f, fun a b => BitVec.ofNat 64 (a.toNat / 2 ^ (b.toNat % 64)))
  | .aluSar i f => some (i, f, fun a b => BitVec.ofInt 64 (a.toInt / 2 ^ (b.toNat % 64)))
  | .aluMin i f => some (i, f, fun a b => if a.toInt ≤ b.toInt then a else b)
  | .aluMax i f => some (i, f, fun a b => if a.toInt ≤ b.toInt then b else a)
  | .aluMinu i f => some (i, f, fun a b => if a.toNat ≤ b.toNat then a else b)
  | .aluMaxu i f => some (i, f, fun a b => if a.toNat ≤ b.toNat then b else a)
  | .aluInshi i f => some (i, f, fun a b => BitVec.ofNat 64 (a.toNat % 2 ^ 48 + b.toNat % 2 ^ 16 * 2 ^ 48))
  | .aluHnd i f => some (i, f, fun _ b => BitVec.ofNat 64 (2 ^ 63 + b.toNat % 2 ^ 32))
  | _ => none

/-- s[SA] of a scalar instruction. -/
def opA (p : Plane) (i : Issue) (sa : BitVec 5) : U64 := BitVec.ofNat 64 (regAt p i sa)

/-- b: s[SB], or the immediate extended by its sign. -/
def opB (p : Plane) (i : Issue) (sb : BitVec 5) (useImm : Bool) (imm : BitVec 48) : U64 :=
  if useImm then BitVec.ofInt 64 imm.toInt else BitVec.ofNat 64 (regAt p i sb)

/-- The state after an instruction whose only effect is to write one register: the register holds the value,
unless it is s0, which reads 0; every other register, every predicate, every other task and all else stay. -/
def WritesReg (s t : State) (i : Issue) (r : BitVec 5) (v : Nat) : Prop :=
  SameQueue s t
    ∧ (∀ k, regAt t.plane i k = if k = 0#5 then 0 else if k = r then v % 2 ^ 64 else regAt s.plane i k)
    ∧ (∀ k, predAt t.plane i k = predAt s.plane i k)
    ∧ flowAt t.plane i = nextFlow s.plane i
    ∧ OtherTasks s.plane t.plane i ∧ SeqFrame s.plane t.plane

/-- The same for one predicate; p0 reads 1. -/
def WritesPred (s t : State) (i : Issue) (r : BitVec 3) (b : Bool) : Prop :=
  SameQueue s t
    ∧ (∀ k, regAt t.plane i k = regAt s.plane i k)
    ∧ (∀ k, predAt t.plane i k = if k = 0#3 then true else if k = r then b else predAt s.plane i k)
    ∧ flowAt t.plane i = nextFlow s.plane i
    ∧ OtherTasks s.plane t.plane i ∧ SeqFrame s.plane t.plane

/-- The comparison that CMP selects. -/
def compares (cmp : BitVec 3) (a b : U64) : Bool :=
  if cmp = 0 then decide (a = b)
  else if cmp = 1 then decide (a ≠ b)
  else if cmp = 2 then decide (a.toInt < b.toInt)
  else if cmp = 3 then decide (a.toInt ≥ b.toInt)
  else if cmp = 4 then decide (a.toNat < b.toNat)
  else decide (a.toNat ≥ b.toNat)

/-- The target of a BR. -/
def target (p : Plane) (i : Issue) (f : BrF) : Int :=
  if f.ind then ((regAt p i f.sr % 2 ^ 20 : Nat) : Int) else ((taskAt p i).regs.pc : Int) + 1 + f.off.toInt

/-- A place lies in the body of a loop. -/
def inLoop (pc : Nat) (l : LoopE) : Prop := l.start ≤ pc ∧ pc ≤ l.last

/-- Repeat count of a LOOP: the low 32 bits of its register. -/
def loopCount (p : Plane) (i : Issue) (f : LoopF) : Nat := regAt p i f.creg % 2 ^ 32

/-- No virtual engine keeps its buffer in memory (R159). -/
def NoneHosted (p : Plane) : Prop := ∀ v, isHosted p v = false

/-- Nothing changes but the issuing task's state, registers and epoch, and the sequencer's marks. -/
def TaskOnly (s t : State) (i : Issue) : Prop :=
  SameQueue s t ∧ OtherTasks s.plane t.plane i ∧ SeqFrame s.plane t.plane

end Sys2Proof.Claims

open Sys2Proof.Claims

/-! ## Scalar and control-flow instructions -/

/-- ALU (R183): s[SD] takes s[SA] op b modulo 2^64, and nothing else changes but the PC. RDSPEC gives the virtual
engine, the task slot or the epoch (48 bits); a b of 3 or more stops it with FIELD_RANGE. -/
def Obligations.AluWritesResult : Prop :=
  (∀ c i f op s pi, aluOp c = some (i, f, op) → Ready c i planNone pi s.plane →
    ∃ t, exec c s = .next t
      ∧ WritesReg s t i f.sd (op (opA s.plane i f.sa) (opB s.plane i f.sb f.i f.imm)).toNat)
  ∧ (∀ i f s pi, Ready (.aluRdspec i f) i (rdspecPlan f) pi s.plane →
    ∃ t, exec (.aluRdspec i f) s = .next t ∧ (opB s.plane i f.sb f.i f.imm).toNat < 3 ∧ WritesReg s t i f.sd
      (if (opB s.plane i f.sb f.i f.imm).toNat = 0 then i.veng.val
        else if (opB s.plane i f.sb f.i f.imm).toNat = 1 then i.slot.val else (taskAt s.plane i).epoch % 2 ^ 48))
  ∧ (∀ i f s pi, Reaches (.aluRdspec i f) i pi s.plane → 3 ≤ (opB s.plane i f.sb f.i f.imm).toNat →
    exec (.aluRdspec i f) s = .next { s with
      plane := stopFault s.plane (envOf s.plane i pi) .fieldRange (insnAt s.plane (envOf s.plane i pi)) [] })

/-- SETP (R183, R186): p[PD] takes the comparison, or its AND or OR with the old value; p0 stays 1. -/
def Obligations.SetpWritesPredicate : Prop :=
  ∀ i f s pi, Ready (.setp i f) i (setpPlan f) pi s.plane →
    ∃ t, exec (.setp i f) s = .next t ∧ f.cmp.toNat < 6 ∧ f.comb.toNat < 3
      ∧ WritesPred s t i f.pd
          (let c := compares f.cmp (opA s.plane i f.sa) (opB s.plane i f.sb f.i f.imm)
           if f.comb = 0 then c
           else if f.comb = 1 then predAt s.plane i f.pd && c else predAt s.plane i f.pd || c)

/-- BR (R184): the PC takes the target, which lies inside the image; the loops whose body it leaves end, with those
inside them, and the outer ones go on. -/
def Obligations.BranchTakesTarget : Prop :=
  ∀ i f s pi, Ready (.br i f) i (brPlan f) pi s.plane →
    ∃ t, exec (.br i f) s = .next t ∧ 0 ≤ target s.plane i f
      ∧ target s.plane i f < (ninsnOf s.plane i.veng.val : Int)
      ∧ ((taskAt t.plane i).regs.pc : Int) = target s.plane i f
      ∧ (∃ ended, (taskAt s.plane i).regs.loops = ended ++ (taskAt t.plane i).regs.loops
          ∧ (∀ l, ended.getLast? = some l → ¬ inLoop (taskAt t.plane i).regs.pc l))
      ∧ (∀ l ∈ (taskAt t.plane i).regs.loops, inLoop (taskAt t.plane i).regs.pc l)
      ∧ SameRegs s.plane t.plane i ∧ TaskOnly s t i

/-- LOOP (R184): a count of 0 skips the body; any other count enters it with one iteration less to come. At the last
instruction of the body, here one of the ALU rows, the PC goes back to the body's start while iterations are left, and past
the body when none is. -/
def Obligations.LoopRunsBody : Prop :=
  (∀ i f s pi, Ready (.loop i f) i (loopPlan f) pi s.plane →
      ∃ t, exec (.loop i f) s = .next t ∧ 1 ≤ f.len.toNat
        ∧ (taskAt s.plane i).regs.pc + f.len.toNat < ninsnOf s.plane i.veng.val
        ∧ (taskAt s.plane i).regs.loops.length ≤ 3
        ∧ (loopCount s.plane i f ≠ 0 → flowAt t.plane i
            = ((taskAt s.plane i).regs.pc + 1,
                ⟨(taskAt s.plane i).regs.pc + 1, (taskAt s.plane i).regs.pc + f.len.toNat, loopCount s.plane i f - 1⟩
                  :: (taskAt s.plane i).regs.loops))
        ∧ (loopCount s.plane i f = 0 → (taskAt s.plane i).regs.loops = [] →
            flowAt t.plane i = ((taskAt s.plane i).regs.pc + f.len.toNat + 1, []))
        ∧ SameRegs s.plane t.plane i ∧ TaskOnly s t i)
  ∧ (∀ c i f op s pi l rest, aluOp c = some (i, f, op) → Ready c i planNone pi s.plane →
      (taskAt s.plane i).regs.loops = l :: rest → (taskAt s.plane i).regs.pc = l.last →
      (∀ l' ∈ rest, l.last < l'.last) →
      ∃ t, exec c s = .next t
        ∧ (0 < l.left → flowAt t.plane i = (l.start, { l with left := l.left - 1 } :: rest))
        ∧ (l.left = 0 → flowAt t.plane i = (l.last + 1, rest)))

/-- YIELD, WAIT and SEAL_AWAIT (R182, R185, R189) change nothing but the PC and the sequencer's marks; the slot is
then last in the round-robin order of its priority. -/
def Obligations.WaitsGoOn : Prop :=
  (∀ i s pi, Ready (.yield i) i planNone pi s.plane →
    ∃ t, exec (.yield i) s = .next t ∧ GoesOn s.plane t.plane i ∧ TaskOnly s t i
      ∧ spGet (getV t.plane i.veng.val).rr (taskAt s.plane i).regs.prio = some i.slot.val)
  ∧ (∀ i m s pi, Ready (.wait i m) i (tagPlan m) pi s.plane →
    ∃ t, exec (.wait i m) s = .next t ∧ GoesOn s.plane t.plane i ∧ TaskOnly s t i
      ∧ (∀ f ∈ s.plane.flights, f.veng = i.veng.val → f.slot = i.slot.val →
          ∀ k, f.tag = some k → m.getLsbD k = false))
  ∧ (∀ i s pi, Ready (.sealAwait i) i awaitPlan pi s.plane →
    ∃ t, exec (.sealAwait i) s = .next t ∧ GoesOn s.plane t.plane i ∧ TaskOnly s t i
      ∧ (taskAt s.plane i).epoch ≤ (getP s.plane pi).committed + 1)

/-- HALT (R185): the task is ENDING, its PC stays, nothing else of the Plane changes before what follows of itself
(a slot with nothing in flight becomes FREE). -/
def Obligations.HaltEndsTask : Prop :=
  ∀ i s pi, Ready (.halt i) i haltPlan pi s.plane →
    ∃ q, exec (.halt i) s = .next { s with plane := settle q }
      ∧ (taskAt q i).st = .ending ∧ (taskAt q i).regs = (taskAt s.plane i).regs
      ∧ OtherTasks s.plane q i ∧ SeqFrame s.plane q

/-- SWAP (R138): the halves trade places; the loads of weights from a swapping part remember it. -/
def Obligations.SwapTurnsHalves : Prop :=
  ∀ i s pi, Ready (.swap i) i swapPlan pi s.plane →
    ∃ t, exec (.swap i) s = .next t ∧ GoesOn s.plane t.plane i ∧ SameQueue s t
      ∧ (getV t.plane i.veng.val).frontB = !(getV s.plane i.veng.val).frontB
      ∧ (∀ w, (getV t.plane i.veng.val).active = some w → w.swapping = true → w.swapped = true)
      ∧ (getV t.plane i.veng.val).buf = (getV s.plane i.veng.val).buf
      ∧ (getV t.plane i.veng.val).plaza = (getV s.plane i.veng.val).plaza
      ∧ (∀ v, v ≠ i.veng.val → (getV t.plane v).data = (getV s.plane v).data)
      ∧ SameMemory s.plane t.plane

/-! ## Queues, Crossings, seals, contexts -/

namespace Sys2Proof.Claims

/-- Apart from requests on the ports and black-box records, an issue changes what `IssueFrame` names. -/
def PortFrame (p q : Plane) : Prop := IssueFrame p { q with memp := p.memp, bb := p.bb }

/-- One instruction has joined those in flight, with its tag and the effect that its completion has. -/
def NewFlight (p q : Plane) (i : Issue) (pi : Nat) (tag : Option Nat) (fin : Finish) : Prop :=
  q.flights.length = p.flights.length + 1 ∧ q.nextId = p.nextId + 1
    ∧ (∀ g ∈ p.flights, g.id ≠ p.nextId → g ∈ q.flights)
    ∧ ∃ f, q.flights.getLast? = some f ∧ f.id = p.nextId ∧ f.veng = i.veng.val ∧ f.slot = i.slot.val ∧ f.part = pi
        ∧ f.epoch = (taskAt p i).epoch ∧ f.tag = tag ∧ f.finish = fin

/-- The requests of a span stand on the home port of the issuing engine, on a tag or waiting for one (R297). -/
def Requested (p q : Plane) (i : Issue) (op : MemOp) (a n : Nat) : Prop :=
  ∀ r ∈ reqList a n, ∃ x ∈ (getMP q (homePort p i.veng.val)).reqs ++ (getMP q (homePort p i.veng.val)).waiting,
    x.op = op ∧ x.addr = r.1 ∧ x.len = r.2 ∧ x.owner = .flight p.nextId

/-- The parts of a span that lie in the windows of a partition, by request. -/
def inSpan (p : Plane) (pi a n b : Nat) : Prop :=
  ∃ r ∈ reqList a n, r.1 ≤ b ∧ b < r.1 + r.2 ∧ inWindow p pi r.1 r.2 = true

/-- Memory address of an XFER (R169). -/
def xferAddr (p : Plane) (i : Issue) (f : XferF) : Nat := memAddr (regAt p i f.mreg) f.moff

/-- The queue that an HQ instruction names. -/
def queueOf (p : Plane) (f : HqF) : Hq := getQ p f.qid.toNat

end Sys2Proof.Claims

/-- HQ (R6, R146, R148, R180). PUT: with room, the handle, its reserved bits 0, joins the tail and the put counter counts; to a full queue, possible only
with TRY, nothing joins. GET: the oldest handle leaves the queue, and s[SREG] takes 2^63 + handle; from an empty queue, possible
only with TRY, nothing is taken and no register changes. With TRY the predicate tells which. Every other queue and all memory
stay. -/
def Obligations.QueuesKeepOrder : Prop :=
  (∀ i f s pi, Ready (.hqPut i f) i (putPlan f) pi s.plane →
      ∃ t, exec (.hqPut i f) s = .next t
        ∧ (queueOf s.plane f).en = true ∧ (queueOf s.plane f).part = pi
        ∧ ((queueOf s.plane f).items.length < 32 →
            (queueOf t.plane f).items = (queueOf s.plane f).items ++ [handleWord (regAt s.plane i f.sreg % 2 ^ 32)]
              ∧ (queueOf t.plane f).puts = ((queueOf s.plane f).puts + 1) % 2 ^ 32
              ∧ (queueOf t.plane f).head = (queueOf s.plane f).head)
        ∧ (32 ≤ (queueOf s.plane f).items.length → f.tryIt = true ∧ queueOf t.plane f = queueOf s.plane f)
        ∧ (∀ k, predAt t.plane i k = if k = 0#3 then true
              else if f.tryIt = true ∧ k = f.pd then decide ((queueOf s.plane f).items.length < 32)
              else predAt s.plane i k)
        ∧ (∀ r, regAt t.plane i r = regAt s.plane i r)
        ∧ flowAt t.plane i = nextFlow s.plane i ∧ OtherTasks s.plane t.plane i ∧ SameQueue s t
        ∧ (∀ q, q ≠ f.qid.toNat → getQ t.plane q = getQ s.plane q)
        ∧ SeqFrame s.plane { t.plane with queues := s.plane.queues })
  ∧ (∀ i f s pi, Ready (.hqGet i f) i (getPlan f) pi s.plane →
      ∃ t, exec (.hqGet i f) s = .next t
        ∧ (queueOf s.plane f).en = true ∧ (queueOf s.plane f).part = pi
        ∧ (∀ h rest, (queueOf s.plane f).items = h :: rest →
            (queueOf t.plane f).items = rest
              ∧ (∀ r, regAt t.plane i r = if r = 0#5 then 0 else if r = f.sreg then (2 ^ 63 + h) % 2 ^ 64
                  else regAt s.plane i r))
        ∧ ((queueOf s.plane f).items = [] → f.tryIt = true ∧ queueOf t.plane f = queueOf s.plane f
            ∧ ∀ r, regAt t.plane i r = regAt s.plane i r)
        ∧ (∀ k, predAt t.plane i k = if k = 0#3 then true
              else if f.tryIt = true ∧ k = f.pd then !(queueOf s.plane f).items.isEmpty
              else predAt s.plane i k)
        ∧ flowAt t.plane i = nextFlow s.plane i ∧ OtherTasks s.plane t.plane i ∧ SameQueue s t
        ∧ (∀ q, q ≠ f.qid.toNat → getQ t.plane q = getQ s.plane q)
        ∧ SeqFrame s.plane { t.plane with queues := s.plane.queues })

/-- CROSS (R156, R157, R181). ARRIVE: where no task of the engine has a failed transfer, the engine's arrival is issued and
pending, the instruction is in flight, and nothing else of the Crossing changes. WAIT passes only an arrival that has released;
the participant that passes last frees the ID. -/
def Obligations.CrossArriveAndWait : Prop :=
  (∀ i cid mreg s pi, Ready (.crossArrive i cid mreg) i (arrivePlan cid mreg) pi s.plane →
      (∀ k, (getT s.plane i.veng.val k).failTags = 0) →
      ∃ t, exec (.crossArrive i cid mreg) s = .next t
        ∧ bit (regAt s.plane i mreg) i.veng.val = true
        ∧ (∃ c, spGet t.plane.cross cid.toNat = some c ∧ c.mask = BitVec.ofNat 64 (regAt s.plane i mreg)
            ∧ c.issued.getLsbD i.veng.val = true
            ∧ (∀ o, spGet s.plane.cross cid.toNat = some o → c.arrived = o.arrived ∧ c.released = o.released)
            ∧ (spGet s.plane.cross cid.toNat = none → c.arrived = 0 ∧ c.released = false))
        ∧ (∀ k, k ≠ cid.toNat → spGet t.plane.cross k = spGet s.plane.cross k)
        ∧ spGet (getV t.plane i.veng.val).arrivals cid.toNat = some .pending
        ∧ NewFlight s.plane t.plane i pi none (.crossArrive cid.toNat)
        ∧ GoesOn s.plane t.plane i ∧ SameQueue s t ∧ SameMemory s.plane t.plane ∧ t.plane.queues = s.plane.queues)
  ∧ (∀ i cid s pi, Ready (.crossWait i cid) i (waitPlan cid) pi s.plane →
      ∃ t, exec (.crossWait i cid) s = .next t
        ∧ spGet (getV s.plane i.veng.val).arrivals cid.toNat = some .released
        ∧ (∀ c, spGet s.plane.cross cid.toNat = some c → c.released = true → c.mask.getLsbD i.veng.val = true →
            (setBit64 c.passed i.veng.val = c.mask → spGet t.plane.cross cid.toNat = none)
              ∧ (setBit64 c.passed i.veng.val ≠ c.mask →
                  spGet t.plane.cross cid.toNat = some { c with passed := setBit64 c.passed i.veng.val }))
        ∧ (∀ k, k ≠ cid.toNat → spGet t.plane.cross k = spGet s.plane.cross k)
        ∧ GoesOn s.plane t.plane i ∧ SameQueue s t
        ∧ SeqFrame s.plane { t.plane with cross := s.plane.cross })

/-- SEAL CLOSE (R182, R236): where no task of the engine has a failed transfer, the task goes on in the next epoch,
s[DREG] holds its number, the checkpoint holds the task's registers at the next instruction, and the arrive of the
seal Crossing is in flight. -/
def Obligations.SealCloseOpensEpoch : Prop :=
  ∀ i dreg s pi, Ready (.sealClose i dreg) i closePlan pi s.plane → (∀ k, (getT s.plane i.veng.val k).failTags = 0) →
    ∃ t, exec (.sealClose i dreg) s = .next t
      ∧ (taskAt s.plane i).epoch ≤ (getP s.plane pi).committed + 1
      ∧ (taskAt t.plane i).epoch = (taskAt s.plane i).epoch + 1
      ∧ (∀ r, regAt t.plane i r = if r = 0#5 then 0 else if r = dreg then ((taskAt s.plane i).epoch + 1) % 2 ^ 48
            else regAt s.plane i r)
      ∧ (∀ k, predAt t.plane i k = predAt s.plane i k)
      ∧ flowAt t.plane i = nextFlow s.plane i ∧ OtherTasks s.plane t.plane i
      ∧ (∃ c, (taskAt t.plane i).checks.head? = some c ∧ c.epoch = (taskAt s.plane i).epoch
          ∧ c.regs = (taskAt t.plane i).regs ∧ c.session = (taskAt s.plane i).session)
      ∧ (getP t.plane pi).lastClosed = max (getP s.plane pi).lastClosed (taskAt s.plane i).epoch
      ∧ (getP t.plane pi).committed = (getP s.plane pi).committed
      ∧ NewFlight s.plane t.plane i pi none .sealArrive
      ∧ SameQueue s t ∧ SameMemory s.plane t.plane

/-- CTX (R126, R127, R182): SNAPSHOT stores the statistics image at the address, wherever the windows allow, and
leaves every other byte; RESET makes the statistics fields of the context 0 and no other bit of it changes. With RST
a SNAPSHOT does both. -/
def Obligations.CtxSnapshotAndReset : Prop :=
  ∀ i f s pi c, ctxGet s.plane (regAt s.plane i f.creg % 2 ^ 24) = some c →
    (Ready (.ctxSnapshot i f) i (ctxPlan true f) pi s.plane →
      ∃ t, exec (.ctxSnapshot i f) s = .next t
        ∧ memAddr (regAt s.plane i f.mreg) f.moff % 64 = 0
        ∧ (∀ k, inSpan s.plane pi (memAddr (regAt s.plane i f.mreg) f.moff)
              (statImage s.plane (taskAt s.plane i).epoch c).length (memAddr (regAt s.plane i f.mreg) f.moff + k) →
            hostByte t.plane (memAddr (regAt s.plane i f.mreg) f.moff + k)
              = (statImage s.plane (taskAt s.plane i).epoch c).getD k 0)
        ∧ SameOutside s.plane t.plane (inSpan s.plane pi (memAddr (regAt s.plane i f.mreg) f.moff)
            (statImage s.plane (taskAt s.plane i).epoch c).length)
        ∧ ctxGet t.plane (regAt s.plane i f.creg % 2 ^ 24) = some (if f.rst then setFld c 767 512 0 else c)
        ∧ NewFlight s.plane t.plane i pi (some f.tag.toNat) .plain
        ∧ GoesOn s.plane t.plane i ∧ SameQueue s t)
    ∧ (Ready (.ctxReset i f) i (ctxPlan false f) pi s.plane →
      ∃ t, exec (.ctxReset i f) s = .next t ∧ f.rst = true
        ∧ ctxGet t.plane (regAt s.plane i f.creg % 2 ^ 24) = some (setFld c 767 512 0)
        ∧ (∀ k, k ≠ regAt s.plane i f.creg % 2 ^ 24 → ctxGet t.plane k = ctxGet s.plane k)
        ∧ t.plane.flights = s.plane.flights
        ∧ GoesOn s.plane t.plane i ∧ SameQueue s t ∧ SameMemory s.plane t.plane)

/-! ## Transfers -/

/-- LOAD (R177, R178, R189): its requests go to the port, the instruction joins its tag, and until it completes
neither memory nor any buffer, Plaza entry or register changes. -/
def Obligations.LoadAsksPort : Prop :=
  ∀ i f s pi, Ready (.load i f) i (copyPlan .fill f) pi s.plane →
    ∃ t, exec (.load i f) s = .next t
      ∧ 1 ≤ f.len.toNat ∧ f.len.toNat ≤ halfBytes
      ∧ (∀ r ∈ reqList (xferAddr s.plane i f) f.len.toNat, inWindow s.plane pi r.1 r.2 = true)
      ∧ Requested s.plane t.plane i .read (xferAddr s.plane i f) f.len.toNat
      ∧ (∃ b, b = (bufResolve s.plane i.veng.val (regAt s.plane i f.breg) f.boff.toNat (unitsOf f.len.toNat) .fill).1
          ∧ NewFlight s.plane t.plane i pi (some f.tag.toNat)
              (.load (xferAddr s.plane i f) f.len.toNat b.veng (b.half * halfBytes + 128 * b.unit)))
      ∧ GoesOn s.plane t.plane i ∧ SameQueue s t ∧ PortFrame s.plane t.plane

/-- STORE (R177, R178): the buffer's bytes stand in memory at the address, every other byte of memory stays, and
the requests go to the port. -/
def Obligations.StoreWritesBytes : Prop :=
  ∀ i f s pi, Ready (.store i f) i (copyPlan .read f) pi s.plane →
    ∃ t, exec (.store i f) s = .next t
      ∧ 1 ≤ f.len.toNat ∧ f.len.toNat ≤ halfBytes
      ∧ (∃ b, b = (bufResolve s.plane i.veng.val (regAt s.plane i f.breg) f.boff.toNat (unitsOf f.len.toNat) .read).1
          ∧ memAt t.plane (xferAddr s.plane i f) f.len.toNat = bufGet s.plane b f.len.toNat)
      ∧ SameOutside s.plane t.plane (fun a => xferAddr s.plane i f ≤ a ∧ a < xferAddr s.plane i f + f.len.toNat)
      ∧ Requested s.plane t.plane i .write (xferAddr s.plane i f) f.len.toNat
      ∧ NewFlight s.plane t.plane i pi (some f.tag.toNat) .plain
      ∧ GoesOn s.plane t.plane i ∧ SameQueue s t ∧ PortFrame s.plane { t.plane with mem := s.plane.mem }

/-- XLOAD and XTLOAD (R93, R177): the address is a multiple of 8, the instruction joins its tag with the tile that
it will fill, and until it completes neither memory nor the Plaza changes. -/
def Obligations.ExactLoadsJoin : Prop :=
  ∀ i f s pi, (Ready (.xload i f) i (exactLoadPlan f) pi s.plane →
    ∃ t, exec (.xload i f) s = .next t ∧ xferAddr s.plane i f % 8 = 0
      ∧ NewFlight s.plane t.plane i pi (some f.tag.toNat)
          (.xload false (xferAddr s.plane i f) f.bgrp.toNat f.m.toNat f.add)
      ∧ GoesOn s.plane t.plane i ∧ SameQueue s t ∧ PortFrame s.plane t.plane)
    ∧ (Ready (.xtload i f) i (exactLoadPlan f) pi s.plane →
    ∃ t, exec (.xtload i f) s = .next t ∧ xferAddr s.plane i f % 8 = 0
      ∧ NewFlight s.plane t.plane i pi (some f.tag.toNat)
          (.xload true (xferAddr s.plane i f) f.bgrp.toNat f.m.toNat f.add)
      ∧ GoesOn s.plane t.plane i ∧ SameQueue s t ∧ PortFrame s.plane t.plane)

/-- XSTORE and XTSTORE (R49, R54, R94), with no error of the Plaza: the tile's entries stand in memory in their
format wherever the windows allow, every other byte stays; without RELEASE the entries and floors of the tile stay,
with it its groups are FREE. The F of an image over groups of several floors is the model's choice (log 31). -/
def Obligations.ExactStoresWrite : Prop :=
  ∀ (image : Bool) i f s pi els, Clean (if image then .xtstore i f else .xstore i f) i (exactStorePlan true f) pi s.plane →
    els = (tileRows (getV s.plane i.veng.val) (16 * f.bgrp.toNat) f.m.toNat 192).flatten →
    ∃ t, exec (if image then .xtstore i f else .xstore i f) s = .next t
      ∧ xferAddr s.plane i f % 8 = 0
      ∧ (∀ k, inSpan s.plane pi (xferAddr s.plane i f) (xstoreBytes image els).length (xferAddr s.plane i f + k) →
          hostByte t.plane (xferAddr s.plane i f + k) = (xstoreBytes image els).getD k 0)
      ∧ SameOutside s.plane t.plane (inSpan s.plane pi (xferAddr s.plane i f) (xstoreBytes image els).length)
      ∧ (f.rel = false → ∀ r c, getAcc (getV t.plane i.veng.val) r c = getAcc (getV s.plane i.veng.val) r c)
      ∧ (f.rel = true → ∀ g ∈ tileGroups f.bgrp.toNat f.m.toNat, (getG (getV t.plane i.veng.val) g).st = .free)
      ∧ GoesOn s.plane t.plane i ∧ SameQueue s t

/-- SQUARE (R103, R104): a free record, in this model the lowest (its own choice, log 74), is OPEN with the context,
offset, floor and close count that the instruction gives, and the tile's groups belong to it with every entry zero. -/
def Obligations.SquareDeclares : Prop :=
  ∀ i f s pi c, Ready (.square i f) i (squarePlan f) pi s.plane →
    ctxGet s.plane (regAt s.plane i f.creg % 2 ^ 24) = some c →
    ∃ t q sq, exec (.square i f) s = .next t
      ∧ q < 32 ∧ spGet (getV s.plane i.veng.val).squares q = none
      ∧ (∀ k, k < q → spGet (getV s.plane i.veng.val).squares k ≠ none)
      ∧ spGet (getV t.plane i.veng.val).squares q = some sq
      ∧ sq.st = .opened ∧ sq.owner = i.slot.val ∧ sq.m = f.m.toNat ∧ sq.baseGrp = f.bgrp.toNat
      ∧ sq.gid = ctxGid c ∧ sq.offset = regAt s.plane i f.xreg % 2 ^ 36 ∧ sq.tally = 0
      ∧ sq.closeCnt = regAt s.plane i f.mreg % 2 ^ 16 ∧ sq.closeCnt ≠ 0
      ∧ (∀ g ∈ tileGroups f.bgrp.toNat f.m.toNat, (getG (getV s.plane i.veng.val) g).st = .free
          ∧ (getG (getV t.plane i.veng.val) g).st = .square q ∧ (getG (getV t.plane i.veng.val) g).f = sq.f
          ∧ ∀ r k, r / 16 = g → k < 192 → getAcc (getV t.plane i.veng.val) r k = accZero)
      ∧ NewFlight s.plane t.plane i pi (some f.tag.toNat) .square
      ∧ GoesOn s.plane t.plane i ∧ SameQueue s t ∧ SameMemory s.plane t.plane

namespace Sys2Proof.Claims

/-- What host software and the world outside see of the control core is as it was: registers, mailboxes, sessions,
transactions, duties, pins, NVM, fuses, start-up's account. -/
structure SameControl (p q : Plane) : Prop where
  regs : q.regs = p.regs
  mbx : q.mbx = p.mbx
  mbxMem : q.mbxMem = p.mbxMem
  sessions : q.sessions = p.sessions
  txns : q.txns = p.txns
  duties : q.duties = p.duties
  pins : q.pins = p.pins
  nvm : q.nvm = p.nvm
  fuses : q.fuses = p.fuses
  boot : q.boot = p.boot

/-- What every engine instruction that goes on has in common: the task, the queue of commands, the control core. -/
def Proceeds (s t : State) (i : Issue) : Prop :=
  GoesOn s.plane t.plane i ∧ SameQueue s t ∧ SameControl s.plane t.plane

/-- Its instruction has joined those in flight with its tag; the completion is that of no other row. -/
def Joined (p q : Plane) (i : Issue) (tag : Option Nat) : Prop :=
  ∃ f ∈ q.flights, f.id = p.nextId ∧ f.veng = i.veng.val ∧ f.slot = i.slot.val ∧ f.tag = tag

/-- Stream number of an XFER. -/
def streamNo (p : Plane) (i : Issue) (f : XferF) : Nat := regAt p i f.creg % 4096

/-- The range of a stream's table that holds row v (R141). -/
def rowRange (p : Plane) (n v : Nat) : Nat × Nat := (sTable (getS p n) v, sRowBytes (getS p n))

end Sys2Proof.Claims

/-- XSEND (R105, R177), with no error of the Plaza: the hub takes the entries, and with RELEASE the tile's groups are FREE. -/
def Obligations.XsendHandsOver : Prop :=
  ∀ i f s pi, Clean (.xsend i f) i (exactStorePlan false f) pi s.plane →
    ∃ t, exec (.xsend i f) s = .next t
      ∧ (∀ g ∈ tileGroups f.bgrp.toNat f.m.toNat, (getG (getV s.plane i.veng.val) g).st ≠ .free)
      ∧ (f.rel = true → ∀ g ∈ tileGroups f.bgrp.toNat f.m.toNat, (getG (getV t.plane i.veng.val) g).st = .free)
      ∧ Joined s.plane t.plane i (some f.tag.toNat) ∧ Proceeds s t i
      ∧ t.plane.queues = s.plane.queues ∧ t.plane.streams = s.plane.streams

/-- STREAM START (R142): an IDLE stream of the partition whose context lies in its windows becomes ACTIVE for the
issuing engine with every row to come. -/
def Obligations.StreamStarts : Prop :=
  ∀ i f s pi, Ready (.streamStart i f) i (startPlan f) pi s.plane →
    (∀ r ∈ reqList (xferAddr s.plane i f) 64, inWindow s.plane pi r.1 r.2 = true) →
    ∃ t, exec (.streamStart i f) s = .next t
      ∧ xferAddr s.plane i f % 8 = 0 ∧ sState (getS s.plane (streamNo s.plane i f)) = 0
      ∧ sState (getS t.plane (streamNo s.plane i f)) = 1
      ∧ (getS t.plane (streamNo s.plane i f)).owner = i.veng.val
      ∧ sPart (getS t.plane (streamNo s.plane i f)) = pi ∧ sDone (getS t.plane (streamNo s.plane i f)) = 0
      ∧ (∀ n, n ≠ streamNo s.plane i f → getS t.plane n = getS s.plane n)
      ∧ Joined s.plane t.plane i (some f.tag.toNat) ∧ Proceeds s t i ∧ SameMemory s.plane t.plane

/-- ROW_INSTALL and ROW_EVICT (R149, R150): an install joins its tag and copies nothing before it completes; an
evict takes the entry's valid bit at once and leaves every other entry. -/
def Obligations.RowsInstallAndEvict : Prop :=
  (∀ i f s pi, Ready (.rowInstall i f) i (installPlan f) pi s.plane →
    ∃ t, exec (.rowInstall i f) s = .next t
      ∧ sPart (getS s.plane (streamNo s.plane i f)) = pi
      ∧ t.plane.rowDir = s.plane.rowDir
      ∧ Joined s.plane t.plane i (some f.tag.toNat) ∧ Proceeds s t i ∧ SameMemory s.plane t.plane)
  ∧ (∀ i f s pi, Ready (.rowEvict i f) i (evictPlan f) pi s.plane →
    ∃ t, exec (.rowEvict i f) s = .next t
      ∧ (rdEntry t.plane (regAt s.plane i f.xreg % 2 ^ 32)).getLsbD 31 = false
      ∧ (∀ r, r < 2 ^ 22 → r ≠ regAt s.plane i f.xreg % 2 ^ 22 → rdEntry t.plane r = rdEntry s.plane r)
      ∧ rdHit t.plane (regAt s.plane i f.xreg % 2 ^ 32) = none
      ∧ Joined s.plane t.plane i (some f.tag.toNat) ∧ Proceeds s t i ∧ SameMemory s.plane t.plane)

/-! ## The Roundabout -/

namespace Sys2Proof.Claims

/-- Bytes of a half at its place of an engine's buffer. -/
def halfIn (p : Plane) (v : Nat) (a : BitVec 16) (n : Nat) : List Byte :=
  bufGet p ⟨v, a.toNat / 2 ^ 15, a.toNat % 2 ^ 15, unitsOf n⟩ n

end Sys2Proof.Claims

/-- RING SEQ, TURN (R152, R153, R179), with halves placed where nothing in flight reads or writes (log 15): SEQ starts the
sequence of its table at turn 0, no buffer passed, and its reads are under way; TURN waits until both halves have moved on
and the next have come, puts these in the buffer and counts the turn. Other places are no event: nothing changes. -/
def Obligations.RingSequence : Prop :=
  (∀ i f pl s pi, Ready (.ringSeq i f pl) i (seqPlan f) pi s.plane →
    (placesFree s.plane i.veng.val pl (seqTable s.plane i f) = true →
      ∃ t q, exec (.ringSeq i f pl) s = .next t ∧ (getV t.plane i.veng.val).ring = some q
        ∧ q.table = seqTable s.plane i f ∧ q.turn = 0 ∧ q.ended = false ∧ q.detached = false
        ∧ q.even.passed = 0 ∧ q.odd.passed = 0 ∧ q.even.arrived = 0 ∧ q.odd.arrived = 0
        ∧ q.lagLimit = (if f.lag.toNat = 0 then 2 else f.lag.toNat)
        ∧ NewFlight s.plane t.plane i pi (some f.tag.toNat) (.ringSeq pl) ∧ Proceeds s t i ∧ SameMemory s.plane t.plane)
    ∧ (placesFree s.plane i.veng.val pl (seqTable s.plane i f) = false → exec (.ringSeq i f pl) s = .next s))
  ∧ (∀ i f pl s pi q, Ready (.ringTurn i f pl) i turnPlan pi s.plane → (getV s.plane i.veng.val).ring = some q →
    (placesFree s.plane i.veng.val pl q.table = true →
      ∃ t r, exec (.ringTurn i f pl) s = .next t ∧ (getV t.plane i.veng.val).ring = some r
        ∧ q.turn < 63 ∧ q.ended = false
        ∧ (q.detached = false → q.even.passed = (q.turn + 1) * q.halfBufs ∧ q.odd.passed = (q.turn + 1) * q.halfBufs)
        ∧ r.turn = q.turn + 1 ∧ r.table = q.table ∧ r.even.place = pl.even ∧ r.odd.place = pl.odd
        ∧ r.even.passed = q.even.passed ∧ r.odd.passed = q.odd.passed
        ∧ (NoneHosted s.plane → q.halfBufs = halfBufsOf q.table → halfIn t.plane i.veng.val pl.even (nextHalf s.plane q i.veng.val false).length
              = nextHalf s.plane q i.veng.val false
            ∧ halfIn t.plane i.veng.val pl.odd (nextHalf s.plane q i.veng.val true).length
              = nextHalf s.plane q i.veng.val true)
        ∧ (∀ r, regAt t.plane i r = if r = 0#5 then 0
              else if r = f.dreg then (pl.even.toNat + pl.odd.toNat * 2 ^ 16) % 2 ^ 64 else regAt s.plane i r)
        ∧ (∀ k, predAt t.plane i k = predAt s.plane i k) ∧ flowAt t.plane i = nextFlow s.plane i
        ∧ OtherTasks s.plane t.plane i ∧ SameQueue s t ∧ SameControl s.plane t.plane)
    ∧ (placesFree s.plane i.veng.val pl q.table = false → exec (.ringTurn i f pl) s = .next s))

/-- RING SEND, MCAST and RECV (R154, R179): where nothing that meets it waits yet, a SEND puts the buffer's bytes in
flight to its stop, an MCAST to each stop of its mask, and a RECV waits for the source it names. -/
def Obligations.RingTransfersJoin : Prop :=
  (∀ i f s pi, Ready (.ringSend i f) i (sendPlan f) pi s.plane →
    (∀ r ∈ s.plane.ringRecvs, r.src ≠ i.veng.val) →
    ∃ t b, exec (.ringSend i f) s = .next t
      ∧ b = (bufResolve s.plane i.veng.val (regAt s.plane i f.breg) f.boff.toNat (unitsOf f.len.toNat) .read).1
      ∧ t.plane.ringSends = s.plane.ringSends ++ [⟨s.plane.nextId, i.veng.val, i.slot.val, regAt s.plane i f.xreg % 64,
          bufGet s.plane b f.len.toNat, false, false⟩]
      ∧ NewFlight s.plane t.plane i pi (some f.tag.toNat) .ring ∧ Proceeds s t i ∧ SameMemory s.plane t.plane)
  ∧ (∀ i f s pi, Ready (.ringMcast i f) i (sendPlan f) pi s.plane →
    (∀ r ∈ s.plane.ringRecvs, r.src ≠ i.veng.val) →
    ∃ t b, exec (.ringMcast i f) s = .next t
      ∧ b = (bufResolve s.plane i.veng.val (regAt s.plane i f.breg) f.boff.toNat (unitsOf f.len.toNat) .read).1
      ∧ (∀ d, d < 64 → bit (regAt s.plane i f.xreg) d = true → ∃ x ∈ t.plane.ringSends,
            x.src = i.veng.val ∧ x.dst = d ∧ x.mcast = true ∧ x.data = bufGet s.plane b f.len.toNat)
      ∧ Joined s.plane t.plane i (some f.tag.toNat) ∧ Proceeds s t i ∧ SameMemory s.plane t.plane)
  ∧ (∀ i f s pi, Ready (.ringRecv i f) i (recvPlan f) pi s.plane →
    (∀ x ∈ s.plane.ringSends, x.src ≠ regAt s.plane i f.xreg % 64) →
    ∃ t r, exec (.ringRecv i f) s = .next t ∧ t.plane.ringRecvs = s.plane.ringRecvs ++ [r]
      ∧ r.flight = s.plane.nextId ∧ r.veng = i.veng.val ∧ r.src = regAt s.plane i f.xreg % 64
      ∧ NewFlight s.plane t.plane i pi (some f.tag.toNat) .ring ∧ Proceeds s t i ∧ SameMemory s.plane t.plane)

/-! ## The array, the Plaza and the outputs -/

namespace Sys2Proof.Claims

/-- Entry (r, c) of the tile that an MMA computes: the granules of the A row against column c of the weights (R83). -/
def mmaEntry (w : WLoad) (g : Nat) (fl : Int) (a : List XVal) (c : Nat) : Acc :=
  match w.cols[c]? with
  | some b => ⟨wrap136 (rowDot fl ((granulesOf a).take g) ((granulesOf b).take g)).q,
      (rowDot fl ((granulesOf a).take g) ((granulesOf b).take g)).g⟩
  | none => accZero

/-- The tile's groups are OPEN for the issuing slot in its epoch, with the floor. -/
def Opened (p q : Plane) (i : Issue) (gs : List Nat) (fl : Int) : Prop :=
  ∀ g ∈ gs, (getG (getV q i.veng.val) g).st = .opened ∧ (getG (getV q i.veng.val) g).owner = i.slot.val
    ∧ (getG (getV q i.veng.val) g).f = fl ∧ (getG (getV q i.veng.val) g).epoch = (taskAt p i).epoch

/-- Plaza entries and groups outside a set of groups are as they were. -/
def SamePlazaOutside (p q : Plane) (v : Nat) (gs : List Nat) : Prop :=
  (∀ r c, c < 192 → r / 16 ∉ gs → getAcc (getV q v) r c = getAcc (getV p v) r c)
    ∧ (∀ g, g ∉ gs → getG (getV q v) g = getG (getV p v) g)

end Sys2Proof.Claims

/-- LDW (R81, R171): the shadow registers, empty before, hold the NCOL columns of the image for the issuing task;
the active weights stay. -/
def Obligations.LdwLoadsShadow : Prop :=
  ∀ i f s pi, Ready (.ldw i f) i (ldwPlan f) pi s.plane →
    ∃ t w, exec (.ldw i f) s = .next t
      ∧ (getV s.plane i.veng.val).shadow = none
      ∧ (getV t.plane i.veng.val).shadow = some w
      ∧ w.slot = i.slot.val ∧ w.bctx = f.bctx.toNat ∧ w.g0 = regAt s.plane i f.g0r % 2 ^ 32
      ∧ w.gcnt = f.gcnt.toNat ∧ w.paired = f.pair ∧ w.swapped = false
      ∧ w.cols = ldwCols s.plane (envOf s.plane i pi) f
      ∧ (getV t.plane i.veng.val).active = (getV s.plane i.veng.val).active
      ∧ (getV t.plane i.veng.val).plaza = (getV s.plane i.veng.val).plaza
      ∧ NewFlight s.plane t.plane i pi none .plain ∧ Proceeds s t i ∧ SameMemory s.plane t.plane

/-- MMA that overwrites (R83, R85, R92, R93, R172), with no error of the array: the shadow weights, when there are
any, become the active ones; the tile's groups open with the floor, every entry of its M rows holds its product, and
the Plaza outside the tile stays. -/
def Obligations.MmaOverwritesTile : Prop :=
  ∀ i f s pi, f.add = false → Clean (.mma i f) i (mmaPlan f) pi s.plane →
    ∃ t w, exec (.mma i f) s = .next t ∧ mmaWeights (getV s.plane i.veng.val) = some w ∧ w.slot = i.slot.val
      ∧ (getV t.plane i.veng.val).active = some w ∧ (getV t.plane i.veng.val).shadow = none
      ∧ Opened s.plane t.plane i (mmaGroups f) (mmaFloor s.plane (envOf s.plane i pi) f).1
      ∧ (∀ r a c, (mmaRows s.plane (envOf s.plane i pi) f)[r]? = some a → c < 192 →
          getAcc (getV t.plane i.veng.val) (16 * f.bgrp.toNat + r) c
            = accJoin accZero (mmaEntry w f.gcnt.toNat (mmaFloor s.plane (envOf s.plane i pi) f).1 a c))
      ∧ SamePlazaOutside s.plane t.plane i.veng.val (mmaGroups f)
      ∧ NewFlight s.plane t.plane i pi none .plain ∧ Proceeds s t i ∧ SameMemory s.plane t.plane

/-- MMA and RED SUM that add into OPEN groups which share the instruction's floor (R92, R107), with no error of the
array: each entry takes the sum with its product, modulo 2^136, and the Plaza outside the tile stays. -/
def Obligations.AddJoinsEntries : Prop :=
  (∀ i f s pi, f.add = true → Clean (.mma i f) i (mmaPlan f) pi s.plane →
    (∀ g ∈ mmaGroups f, (getG (getV s.plane i.veng.val) g).st = .opened
      ∧ (getG (getV s.plane i.veng.val) g).f = (mmaFloor s.plane (envOf s.plane i pi) f).1) →
    ∃ t w, exec (.mma i f) s = .next t ∧ mmaWeights (getV s.plane i.veng.val) = some w
      ∧ (∀ r a c, (mmaRows s.plane (envOf s.plane i pi) f)[r]? = some a → c < 192 →
          getAcc (getV t.plane i.veng.val) (16 * f.bgrp.toNat + r) c
            = accJoin (getAcc (getV s.plane i.veng.val) (16 * f.bgrp.toNat + r) c)
                (mmaEntry w f.gcnt.toNat (mmaFloor s.plane (envOf s.plane i pi) f).1 a c))
      ∧ SamePlazaOutside s.plane t.plane i.veng.val (mmaGroups f)
      ∧ Proceeds s t i ∧ SameMemory s.plane t.plane)
  ∧ (∀ i f s pi, f.add = true → Clean (.redSum i f) i (sumPlan f) pi s.plane →
    (∀ g ∈ sumGroups (envOf s.plane i pi) f, (getG (getV s.plane i.veng.val) g).st = .opened
      ∧ (getG (getV s.plane i.veng.val) g).f = (sumFloor s.plane (envOf s.plane i pi) f).1) →
    ∃ t, exec (.redSum i f) s = .next t
      ∧ (∀ r l, (redLines s.plane (envOf s.plane i pi) f)[r]? = some l →
          getAcc (getV t.plane i.veng.val) (16 * f.bgrp.toNat + r / 192) (r % 192)
            = accJoin (getAcc (getV s.plane i.veng.val) (16 * f.bgrp.toNat + r / 192) (r % 192))
                (sumCell (sumFloor s.plane (envOf s.plane i pi) f).1 0 r l).acc)
      ∧ SamePlazaOutside s.plane t.plane i.veng.val (sumGroups (envOf s.plane i pi) f)
      ∧ Proceeds s t i ∧ SameMemory s.plane t.plane)

/-- RED SUM that overwrites (R92, R93, R175), with no error of the array: entry j of the tile holds the sum of input
row j, and the Plaza outside the tile stays. -/
def Obligations.SumOverwritesTile : Prop :=
  ∀ i f s pi, f.add = false → Clean (.redSum i f) i (sumPlan f) pi s.plane →
    ∃ t, exec (.redSum i f) s = .next t
      ∧ Opened s.plane t.plane i (sumGroups (envOf s.plane i pi) f) (sumFloor s.plane (envOf s.plane i pi) f).1
      ∧ (∀ r l, (redLines s.plane (envOf s.plane i pi) f)[r]? = some l →
          getAcc (getV t.plane i.veng.val) (16 * f.bgrp.toNat + r / 192) (r % 192)
            = accJoin accZero (sumCell (sumFloor s.plane (envOf s.plane i pi) f).1 0 r l).acc)
      ∧ SamePlazaOutside s.plane t.plane i.veng.val (sumGroups (envOf s.plane i pi) f)
      ∧ Joined s.plane t.plane i (some f.tag.toNat) ∧ Proceeds s t i ∧ SameMemory s.plane t.plane

namespace Sys2Proof.Claims

/-- The rows whose output, with DEST 0, goes to the operand buffer and, with DEST 1, to memory; each with its plan. -/
def outputRow : Instr → Option (Issue × Bool × BitVec 4 × (Plane → Env → Plan))
  | .conv i f => some (i, f.dest, f.tag, convPlan f)
  | .ewiseMov i f => some (i, f.dest, f.tag, ewisePlan true f)
  | .ewiseAdd i f => some (i, f.dest, f.tag, ewisePlan false f)
  | .ewiseSub i f => some (i, f.dest, f.tag, ewisePlan false f)
  | .ewiseMul i f => some (i, f.dest, f.tag, ewisePlan false f)
  | .redMax i f => some (i, f.dest, f.tag, winPlan f)
  | .redMin i f => some (i, f.dest, f.tag, winPlan f)
  | _ => none

end Sys2Proof.Claims
namespace Sys2Proof.Claims

/-- The Plane at the issue step of an instruction, before its effect. -/
def atIssue (p : Plane) (i : Issue) (pi : Nat) (plan : Plane → Env → Plan) : Plane :=
  begun p (envOf p i pi) (plan p (envOf p i pi))

/-- Spans of memory, as (address, bytes), that such a row stores with DEST 1 (R76, R173 to R175). -/
def outMem (c : Instr) (p : Plane) (e : Env) : List (Nat × List Byte) :=
  match c with
  | .conv _ f => outSpans (takePending p e.pi e.ep e.v (convGroups f) f.octx.toNat) e f.octx.toNat
      (modeAt p f.rmo f.octx.toNat) (convEls p e f).flatten
  | .ewiseMov _ f => outSpans p e (e.rCtx f.cor) (modeAt p f.rmo (e.rCtx f.cor)) (ewiseEls true (fun a _ => a) f p e)
  | .ewiseAdd _ f => outSpans p e (e.rCtx f.cor) (modeAt p f.rmo (e.rCtx f.cor)) (ewiseEls false xAdd f p e)
  | .ewiseSub _ f => outSpans p e (e.rCtx f.cor) (modeAt p f.rmo (e.rCtx f.cor)) (ewiseEls false xSub f p e)
  | .ewiseMul _ f => outSpans p e (e.rCtx f.cor) (modeAt p f.rmo (e.rCtx f.cor)) (ewiseEls false xMul f p e)
  | .redMax _ f => if redFinal f then
        outSpans p e (e.rCtx f.cor) (modeAt p f.rmo (e.rCtx f.cor)) (winEls true f p e)
          ++ [(addr52 (e.r f.ireg), winIdx true f p e)]
      else [(addr52 (e.r f.dreg), winRecs true f p e)]
  | .redMin _ f => if redFinal f then
        outSpans p e (e.rCtx f.cor) (modeAt p f.rmo (e.rCtx f.cor)) (winEls false f p e)
          ++ [(addr52 (e.r f.ireg), winIdx false f p e)]
      else [(addr52 (e.r f.dreg), winRecs false f p e)]
  | _ => []

/-- Places of the operand buffer and their bytes that an EWISE writes with DEST 0 (R170, R174). -/
def ewiseOut (c : Instr) (p : Plane) (e : Env) : Option (BufAt × List Byte) :=
  match c with
  | .ewiseMov _ f => some ((ewiseDst p e f).1, outLines p e (e.rCtx f.cor) (modeAt p f.rmo (e.rCtx f.cor))
      [ewiseEls true (fun a _ => a) f p e])
  | .ewiseAdd _ f => some ((ewiseDst p e f).1, outLines p e (e.rCtx f.cor) (modeAt p f.rmo (e.rCtx f.cor))
      [ewiseEls false xAdd f p e])
  | .ewiseSub _ f => some ((ewiseDst p e f).1, outLines p e (e.rCtx f.cor) (modeAt p f.rmo (e.rCtx f.cor))
      [ewiseEls false xSub f p e])
  | .ewiseMul _ f => some ((ewiseDst p e f).1, outLines p e (e.rCtx f.cor) (modeAt p f.rmo (e.rCtx f.cor))
      [ewiseEls false xMul f p e])
  | _ => none

/-- The context that the output of a row takes its class from; none for records of winners. -/
def outCtx (c : Instr) (e : Env) : Option Nat :=
  match c with
  | .conv _ f => some f.octx.toNat
  | .ewiseMov _ f => some (e.rCtx f.cor)
  | .ewiseAdd _ f => some (e.rCtx f.cor)
  | .ewiseSub _ f => some (e.rCtx f.cor)
  | .ewiseMul _ f => some (e.rCtx f.cor)
  | .redMax _ f => if redFinal f then some (e.rCtx f.cor) else none
  | .redMin _ f => if redFinal f then some (e.rCtx f.cor) else none
  | _ => none

end Sys2Proof.Claims

/-- CONV, EWISE, RED MAX and RED MIN with DEST 1, an output that is not staged (R173 to R175, R250) and no error of the
Plaza: the row
completes with its tag; memory outside the spans of the output, every buffer and every register stay. -/
def Obligations.OutputsToMemory : Prop :=
  ∀ c i tag plan s pi, outputRow c = some (i, true, tag, plan) → Ready c i plan pi s.plane →
    (∀ i f, c = .conv i f → i.ev = []) → (∀ id, outCtx c (envOf s.plane i pi) = some id → outHeld s.plane pi id = false) →
    ∃ t, exec c s = .next t
      ∧ Joined s.plane t.plane i (some tag.toNat) ∧ Proceeds s t i
      ∧ SameOutside s.plane t.plane (fun a => ∃ x ∈ outMem c (atIssue s.plane i pi plan) (envOf s.plane i pi),
          x.1 ≤ a ∧ a < x.1 + x.2.length)
      ∧ (∀ v, (getV t.plane v).buf = (getV s.plane v).buf)

/-- The same rows with DEST 0: all memory stays when no engine's buffer is kept in memory, and the row completes. -/
def Obligations.OutputsToBuffer : Prop :=
  ∀ c i tag plan s pi, outputRow c = some (i, false, tag, plan) → Ready c i plan pi s.plane →
    (∀ i f, c = .conv i f → i.ev = []) → NoneHosted s.plane →
    ∃ t, exec c s = .next t
      ∧ Joined s.plane t.plane i (some tag.toNat) ∧ Proceeds s t i ∧ SameMemory s.plane t.plane
      ∧ (∀ k, k < 64 → (getV t.plane k).frontB = (getV s.plane k).frontB
          ∧ (getV t.plane k).active = (getV s.plane k).active ∧ (getV t.plane k).shadow = (getV s.plane k).shadow)

/-- EWISE with DEST 0 (R23, R170, R174): the output line stands in the buffer at its place, in the format of the
output's context; every other byte of every buffer stays. -/
def Obligations.EwiseWritesLine : Prop :=
  ∀ c i tag plan s pi b bs, outputRow c = some (i, false, tag, plan) → Ready c i plan pi s.plane →
    NoneHosted s.plane → ewiseOut c (atIssue s.plane i pi plan) (envOf s.plane i pi) = some (b, bs) →
    ∃ t, exec c s = .next t
      ∧ bufGet t.plane b bs.length = bs
      ∧ (∀ v a, v ≠ b.veng ∨ a < b.half * halfBytes + 128 * b.unit ∨ b.half * halfBytes + 128 * b.unit + bs.length ≤ a →
          memGet 0 (getV t.plane v).buf a = memGet 0 (getV s.plane v).buf a)

/-- UPD, diagonal and block-matrix (R176, R197, R207 to R212), under SHADOW: it issues only when its register's t is
the context's and the epoch before has committed; it joins its tag, marks the update context as run in the epoch
and leaves every buffer, Plaza entry and register. -/
def Obligations.UpdMarksContext : Prop :=
  ∀ c i md ill f s pi u, (c = .updDiagonal i f ∧ md = ⟨1⟩ ∧ ill = false
      ∨ c = .updBlockMatrix i f .k4 ∧ md = ⟨4⟩ ∧ ill = false ∨ c = .updBlockMatrix i f .k8 ∧ md = ⟨8⟩ ∧ ill = false) →
    Ready c i (updPlan md ill f) pi s.plane → ctxGet s.plane f.uctx.toNat = some u →
    (getP s.plane pi).policy.hold = false →
    ∃ t u', exec c s = .next t
      ∧ regAt s.plane i f.treg % 2 ^ 32 = updT u
      ∧ (taskAt s.plane i).epoch ≤ (getP s.plane pi).committed + 1
      ∧ ctxGet t.plane f.uctx.toNat = some u' ∧ updRan u' = true
      ∧ updRanTag u' = (taskAt s.plane i).epoch % 2 ^ 48 ∧ updT u' = updT u
      ∧ (∀ v, (getV t.plane v).data = (getV s.plane v).data)
      ∧ Joined s.plane t.plane i (some f.tag.toNat) ∧ Proceeds s t i

/-! ## Collectives -/

namespace Sys2Proof.Claims

/-- The twelve COLL rows with their OP (R221). -/
def collRowOf : Instr → Option (Nat × Issue × XferF)
  | .rsX i f => some (1, i, f)
  | .arX i f => some (2, i, f)
  | .ag i f => some (3, i, f)
  | .bc i f => some (4, i, f)
  | .maxr i f => some (5, i, f)
  | .minr i f => some (6, i, f)
  | .arC i f => some (7, i, f)
  | .pre i f => some (8, i, f)
  | .digxSum i f => some (9, i, f)
  | .digxAll i f => some (10, i, f)
  | .status i f => some (11, i, f)
  | .maxx i f => some (12, i, f)
  | _ => none

end Sys2Proof.Claims

/-- COLL (R218 to R221), with no error of the Plaza: with a descriptor in the windows of the partition that the hub accepts, the collective is
under way at the hub with the descriptor's fields, its instruction is in flight with its tag, and the epoch's list
of collectives has grown by one. -/
def Obligations.CollectiveStarts : Prop :=
  ∀ c op i f s pi d, collRowOf c = some (op, i, f) → Clean c i (collPlan f) pi s.plane →
    d = readDesc s.plane (xferAddr s.plane i f) → dOp d = op →
    inWindow s.plane pi (xferAddr s.plane i f) 128 = true → descBad s.plane pi d = false →
    (op = 3 ∨ op = 4 → ∃ x k, ctxGet s.plane (dCtx d) = some x ∧ ctxFmt x = some k
      ∧ (k = .xaf136 ∨ (fmtElem k).isSome = true)) →
    ∃ t, exec c s = .next t
      ∧ xferAddr s.plane i f % 128 = 0
      ∧ (∃ x ∈ t.plane.colls, x.id = s.plane.nextId ∧ x.op = op ∧ x.part = pi ∧ x.veng = i.veng.val
          ∧ x.epoch = (taskAt s.plane i).epoch ∧ x.gslot = dSlot d ∧ x.cid = dCid d ∧ x.ctx = dCtx d
          ∧ x.offset = dOff d ∧ x.count = dCount d ∧ x.shard = dShard d ∧ x.root = dRoot d)
      ∧ (∃ g ∈ t.plane.flights, g.id = s.plane.nextId ∧ g.tag = some f.tag.toNat ∧ g.finish = .coll s.plane.nextId)
      ∧ ((epGet (getP s.plane pi) (taskAt s.plane i).epoch).colls.length < 65536 →
          (epGet (getP t.plane pi) (taskAt s.plane i).epoch).colls.length
            = (epGet (getP s.plane pi) (taskAt s.plane i).epoch).colls.length + 1)
      ∧ Proceeds s t i

/-! ## Events -/

namespace Sys2Proof.Claims

/-- The event's own effect gives the Plane `q`; what follows of itself (`settle`) comes after it. -/
def Settles (c : Instr) (s : State) (q : Plane) : Prop := exec c s = .next { s with plane := settle q }

/-- Records that a detail takes: one for each 36 bytes begun (R331). -/
def partsOf (detail : List Byte) : Nat := max 1 ((detail.length + 35) / 36)

/-- With room in the writer's queue exactly one record has joined it, with the next SEQ, and after it the continuations that
its detail needs (R324, R325, R331). -/
def OneRecord (p q : Plane) (c : Code) (source : Nat) (part : Option Nat) (detail : List Byte) : Prop :=
  p.bb.queue.length + partsOf detail ≤ 4096 → ∃ l, q.bb.queue = p.bb.queue ++ l ∧ l.length = partsOf detail
    ∧ q.bb.nextSeq = p.bb.nextSeq + partsOf detail
    ∧ ∀ k r, l[k]? = some r → r.1.seq = p.bb.nextSeq + k ∧ r.1.code = (if k = 0 then c.num else 0xFFFF)
      ∧ r.1.level = c.level ∧ r.1.source = source ∧ r.1.part = part
      ∧ r.1.detail = (detail.drop (36 * k)).take 36 ∧ r.1.cont = decide (36 * (k + 1) < detail.length)

/-- Every engine but its tasks, every partition and all memory are as they were. -/
def SameStore (p q : Plane) : Prop :=
  (∀ v, (getV q v).data = (getV p v).data) ∧ q.parts = p.parts ∧ SameMemory p q

/-- The collective port takes a packet, and it passes the landing checks 1 to 5 (R229): the partition, the slot. -/
structure Passes (p : Plane) (port : Nat) (k : Packet) (rx : RxFault) (i g : Nat) : Prop where
  up : portUp p port = true
  part : partOfRegion p (port / 2) = some i
  live : (getP p i).replay = none
  intact : check1 p port k rx = true
  slot : slotFor p i k = some g
  early : earlyCheck p i g k = none

/-- Row and column of the entry at a logical index of a Square (R61, R104). -/
def squarePlace (s : Square) (k : Nat) : Nat × Nat :=
  (16 * s.baseGrp + (k - s.offset) / 192, (k - s.offset) % 192)

end Sys2Proof.Claims

/-- Crossings (R156 to R158). The arrive of an engine whose earlier work and streams are done completes: the engine has
arrived, its streams and its sequence have ended. Once every member has arrived the Crossing releases every member,
and an ended stream of a member is IDLE once its handles have found room in their pool (R158, R363). -/
def Obligations.CrossingsComplete : Prop :=
  (∀ cid v s f c, f ∈ s.plane.flights → f.veng = v.val → f.finish = .crossArrive cid.val →
    (∀ g ∈ s.plane.flights, g.veng = v.val → g.finish = .crossArrive cid.val → g = f) →
    arriveReady s.plane v.val f.id = true → (∀ k, (getT s.plane v.val k).failTags = 0) →
    spGet s.plane.cross cid.val = some c →
    ∃ q, Settles (.crossArriveComplete cid v) s q
      ∧ spGet q.cross cid.val = some { c with arrived := setBit64 c.arrived v.val }
      ∧ (∀ k, k ≠ cid.val → spGet q.cross k = spGet s.plane.cross k)
      ∧ q.flights = s.plane.flights.filter (fun g => g.id != f.id)
      ∧ (∀ n, sState (getS s.plane n) = 1 → (getS s.plane n).owner = v.val → sState (getS q n) = 2)
      ∧ (∀ r, (getV q v.val).ring = some r → r.ended = true)
      ∧ (∀ w k, getT q w k = getT s.plane w k) ∧ SameMemory s.plane q)
  ∧ (∀ cid s c, s.plane.regs.state = .ready → spGet s.plane.cross cid.val = some c → c.released = false →
    c.arrived = c.mask →
    ∃ q, Settles (.crossingRelease (.prog cid)) s q
      ∧ spGet q.cross cid.val = some { c with released := true }
      ∧ (∀ v, v < 64 → c.mask.getLsbD v = true → spGet (getV q v).arrivals cid.val = some .released)
      ∧ (∀ v, v < 64 → c.mask.getLsbD v = false → (getV q v).arrivals = (getV s.plane v).arrivals)
      ∧ (∀ n, sState (getS s.plane n) = 2 → (getS s.plane n).owner < 64 →
          c.mask.getLsbD (getS s.plane n).owner = true →
          ((getS s.plane n).held = [] → sState (getS q n) = 0)
            ∧ (sState (getS q n) = 0 ∨ (getS q n).leaving = true ∧ (getS q n).held ≠ [])))

/-- INSTRUCTION_COMPLETE (R189, R194): what the instruction holds is free again. A LOAD's data stands in the buffer; an
XLOAD that overwrites opens its groups with the floor of its first element and joins every element of that floor;
contributions count in their Square; a failed transfer marks its tag for the task. -/
def Obligations.TransfersComplete : Prop :=
  ∀ id ev s f, s.plane.flights.find? (fun x => x.id == id) = some f → mayComplete s.plane f = true →
    (f.finish = .plain → f.failed = false →
      ∃ q, Settles (.instructionComplete id ev) s q ∧ q = { s.plane with flights := q.flights }
        ∧ q.flights = s.plane.flights.filter (fun x => x.id != id))
    ∧ (f.finish = .plain → f.failed = true → (getT s.plane f.veng f.slot).st = .active → ∀ k, k < 16 → f.tag = some k →
      ∃ q, Settles (.instructionComplete id ev) s q ∧ (getT q f.veng f.slot).failTags.getLsbD k = true
        ∧ (getT q f.veng f.slot).st = .active ∧ (getT q f.veng f.slot).regs = (getT s.plane f.veng f.slot).regs
        ∧ q.flights = s.plane.flights.filter (fun x => x.id != id) ∧ SameStore s.plane q)
    ∧ (∀ a n v b, f.finish = .load a n v b → f.failed = false → f.bad = [] → NoneHosted s.plane →
      ∃ q, Settles (.instructionComplete id ev) s q
        ∧ (∀ k, k < n → memGet 0 (getV q v).buf (b + k) = hostByte s.plane (a + k))
        ∧ (∀ w x, w ≠ v ∨ x < b ∨ b + (padUnit (memAt s.plane a n)).length ≤ x →
            memGet 0 (getV q w).buf x = memGet 0 (getV s.plane w).buf x)
        ∧ q.flights = s.plane.flights.filter (fun x => x.id != id) ∧ SameMemory s.plane q)
    ∧ (∀ sq n d x, f.finish = .tally [(sq, n, d)] → f.failed = false → spGet (getV s.plane f.veng).squares sq = some x →
      ∃ q, Settles (.instructionComplete id ev) s q
        ∧ spGet (getV q f.veng).squares sq = some { x with tally := x.tally + n, claim := digestAdd x.claim d }
        ∧ (getV q f.veng).plaza = (getV s.plane f.veng).plaza ∧ SameMemory s.plane q)
    ∧ (∀ a bgrp m, f.finish = .xload false a bgrp m false → f.failed = false → f.bad = [] → 0 < m →
      ∃ q, Settles (.instructionComplete id ev) s q
        ∧ (∀ g ∈ tileGroups bgrp m, (getG (getV q f.veng) g).st = .opened ∧ (getG (getV q f.veng) g).owner = f.slot
            ∧ (getG (getV q f.veng) g).epoch = f.epoch
            ∧ (getG (getV q f.veng) g).f = (xaf136Read (memAt s.plane a 24)).2)
        ∧ (∀ j, j < m * 192 → (xaf136Read (memAt s.plane (a + 24 * j) 24)).2 = (xaf136Read (memAt s.plane a 24)).2 →
            getAcc (getV q f.veng) (16 * bgrp + j / 192) (j % 192)
              = accJoin accZero (xaf136Read (memAt s.plane (a + 24 * j) 24)).1)
        ∧ SamePlazaOutside s.plane q f.veng (tileGroups bgrp m) ∧ SameMemory s.plane q)

namespace Sys2Proof.Claims

/-- The bytes of row `v` of a gather: of the engine that has it resident, else of the table in memory (R143, R149). -/
def gathered (p : Plane) (x : Stream) (v : Nat) : List Byte :=
  match (if sKind x = 1 then rdHit p (sRowId x v) else none) with
  | some es => resRead p es.1 (sRowBytes x * es.2) (sRowBytes x)
  | none => memAt p (sTable x v) (sRowBytes x)

end Sys2Proof.Claims

/-- GATHER_ROW_ARRIVE and SCATTER_ADD_BUFFER (R143, R144), where no access fails. A running gather with a buffer that is not
full takes the row of its next index; a scatter with one row left in its buffer adds it, entry by entry of one floor, to the
row of its table in memory. Each counts one index. -/
def Obligations.StreamsMoveRows : Prop :=
  ∀ (n : BitVec 12) fails s x h, s.plane.regs.state = .ready → getS s.plane n.toNat = x → sState x = 1 → x.stopped = false →
    x.ready = true → current x = some h → bufFull x = false → sDone x < sCount x → streamIndex s.plane x < sRows x →
    (sKind x < 2 → NoneHosted s.plane →
      (sKind x = 1 ∧ (rdHit s.plane (sRowId x (streamIndex s.plane x))).isSome = true
        ∨ streamBadReqs s.plane x fails (sTable x (streamIndex s.plane x)) (sRowBytes x) = []) →
      ∃ t, exec (.gatherRowArrive n fails) s = .next t ∧ sDone (getS t.plane n.toNat) = sDone x + 1
        ∧ (∀ k, k < sRowBytes x → memGet 0 (getV t.plane (handleAt h).veng).buf
              ((handleAt h).half * halfBytes + 128 * (handleAt h).unit + x.rows * sRowBytes x + k)
            = (gathered s.plane x (streamIndex s.plane x)).getD k 0)
        ∧ SameMemory s.plane t.plane ∧ SameQueue s t)
    ∧ (∀ ev, sKind x = 3 → x.rows + 1 = x.lim → (getP s.plane (sPart x)).rollback = none →
      streamBadReqs s.plane x fails (sTable x (streamIndex s.plane x)) (24 * (sRowBytes x / 24)) = [] →
      ∃ t, exec (.scatterAddBuffer n ev fails) s = .next t ∧ sDone (getS t.plane n.toNat) = sDone x + 1
        ∧ (∀ k e, (bufEntries s.plane h (x.rows * sRowBytes x) (sRowBytes x / 24))[k]? = some e →
            e.2 = (xaf136Read (memAt s.plane (sTable x (streamIndex s.plane x) + 24 * k) 24)).2 →
            memAt t.plane (sTable x (streamIndex s.plane x) + 24 * k) 24
              = xaf136Bytes (accJoin (xaf136Read (memAt s.plane (sTable x (streamIndex s.plane x) + 24 * k) 24)).1 e.1) e.2)
        ∧ SameOutside s.plane t.plane (fun a => sTable x (streamIndex s.plane x) ≤ a
            ∧ a < sTable x (streamIndex s.plane x) + sRowBytes x)
        ∧ SameQueue s t)

/-- RING_BUFFER_PASS (R153, R154): a stop that may pass a buffer on to the next stop, within its lag limit, does so:
one more has left, and the same bytes have arrived. MUTUAL_WAIT_BREAK (R160): in host-assisted mode a cycle is
recorded and its region counts it; in hardware mode the stream of the lowest priority (of equal ones the lowest
number) gives its newest buffer back to its pool and its bytes to the spill area. How lag is counted, and the region
and the members' identifiers in the record, are the model's choices (logs 79, 80). -/
def Obligations.RingsAndCyclesGoOn : Prop :=
  (∀ (v : Fin 64) odd s q r, s.plane.regs.state = .ready → (getV s.plane v.val).ring = some q →
    (getV s.plane (nextStop v.val odd)).ring = some r → mayPass s.plane v.val q odd (turning s.plane v.val) = true →
    seqLoading s.plane v.val = false → r.ended = false → (r.detached = true ∨ lagAt r odd + 1 ≤ r.lagLimit) →
    ∃ t, exec (.ringBufferPass v odd) s = .next t ∧ (getV t.plane v.val).ring = some (leaveAt odd q)
      ∧ (getV t.plane (nextStop v.val odd)).ring = some (arriveAt odd ((halfOf q odd).data.take 65536) r)
      ∧ (∀ w, w ≠ v.val → w ≠ nextStop v.val odd → getV t.plane w = getV s.plane w)
      ∧ t.plane = { s.plane with vengs := t.plane.vengs } ∧ SameQueue s t)
  ∧ (∀ (part : Fin 8) c s, s.plane.regs.state = .ready → (getP s.plane part.val).defined = true →
    cycleOk s.plane part.val c = true →
    (dutyHw s.plane part.val 4 = false →
      ∃ t r, exec (.mutualWaitBreak part c) s = .next t
        ∧ OneRecord s.plane t.plane .mutualWait (0x40 + r) (some part.val)
          ((c.take 8).flatMap (fun m => toLE 4 (memberId m)))
        ∧ t.plane = { stallR s.plane r 11 1 with bb := t.plane.bb } ∧ SameQueue s t)
    ∧ (∀ n h, dutyHw s.plane part.val 4 = true →
      mwPick s.plane ((cycleStreams c).filter (fun k => (current (getS s.plane k)).isSome
        && !hqFull s.plane (sFree (getS s.plane k)))) = some n →
      (getS s.plane n).held.getLast? = some h →
      mwEnd s.plane (handleAt h).veng + 128 * hUnits h ≤ 4194304 →
      ∃ t src, exec (.mutualWaitBreak part c) s = .next t
        ∧ (getS t.plane n).held = (getS s.plane n).held.dropLast
        ∧ (getQ t.plane (sFree (getS s.plane n))).items
            = (getQ s.plane (sFree (getS s.plane n))).items ++ [handleWord h]
        ∧ memAt t.plane (mwAddr s.plane (handleAt h).veng (mwEnd s.plane (handleAt h).veng)) (128 * hUnits h)
            = bufGet s.plane (handleAt h) (128 * hUnits h)
        ∧ OneRecord s.plane t.plane .mutualWaitBreak src (some part.val)
            ((c.take 8).flatMap (fun m => toLE 4 (memberId m)))
        ∧ SameQueue s t))

/-- PACKET_LANDING (R105, R106, R221, R229), with no error of the array or of storage: an exact packet that passes the checks and whose run lies in an OPEN Square of
its floor joins its entries, and the Square's TALLY and claim grow by them. SQUARE_CLOSE (R106): a Square whose TALLY
is complete is CLOSED; a digest that does not agree sets TOTAL_FAIL in hardware mode. ACK_RECEIVE (R230): the packet
acknowledged is no longer outstanding. COLL_TIMEOUT (R230): the packet's collective no longer waits for it, and a
record is made. -/
def Obligations.PacketsLandInSquares : Prop :=
  (∀ (port : Fin 16) k rx s i g v n sq as, Passes s.plane port.val k rx i g → k.ptype = 0 →
    (getP s.plane i).rollback = none → k.epoch.toNat ≤ running s.plane i → squareFor s.plane i k = some (v, n, sq) →
    squareAt s.plane i k.epoch.toNat k.globalId.toNat k.offset.toNat = some (v, n, sq) →
    spGet (getV s.plane v).squares n = some sq → (ctxGet s.plane sq.ctx).isSome → k.plen.toNat = k.payload.length →
    s.plane.gaz.bad.contains sq.ctx = false → exactOf k = .entries as → 0 < as.length →
    digestAccs sq.dkey k.globalId.toNat k.offset.toNat as = k.digest.toNat →
    k.offset.toNat + as.length ≤ squareEnd sq → sq.st = .opened → squareHere s.plane v sq k.offset.toNat as.length = true →
    sq.f = k.f.toInt → sq.tally + inFlightTally s.plane v n + as.length ≤ sq.closeCnt * squareExtent sq →
    (∀ h ∈ s.plane.heldRuns, h.ack ≠ some (g, k)) →
    ∃ q x, Settles (.packetLanding port k rx [] []) s q ∧ spGet (getV q v).squares n = some x
      ∧ x.tally = sq.tally + as.length ∧ x.st = .opened
      ∧ x.claim = digestAdd sq.claim (digestAccs sq.dkey sq.gid k.offset.toNat as)
      ∧ (∀ j a, as[j]? = some a →
          getAcc (getV q v) (squarePlace sq (k.offset.toNat + j)).1 (squarePlace sq (k.offset.toNat + j)).2
            = accJoin (getAcc (getV s.plane v) (squarePlace sq (k.offset.toNat + j)).1
                (squarePlace sq (k.offset.toNat + j)).2) a)
      ∧ (∀ w, w ≠ v → getV q w = getV s.plane w) ∧ SameMemory s.plane q)
  ∧ (∀ (v : Fin 64) (n : Fin 32) s sq i, spGet (getV s.plane v.val).squares n.val = some sq → partOf s.plane v.val = some i →
    sq.st = .opened → sq.tally = sq.closeCnt * squareExtent sq →
    ∃ q, Settles (.squareClose v n []) s q ∧ spGet (getV q v.val).squares n.val = some { sq with st := .closed }
      ∧ (getV q v.val).plaza = (getV s.plane v.val).plaza
      ∧ (digestAccs sq.dkey sq.gid sq.offset (squareAccs (getV s.plane v.val) sq) = sq.claim →
          q.bb = s.plane.bb ∧ (epGet (getP q i) sq.epoch).status = (epGet (getP s.plane i) sq.epoch).status)
      ∧ (digestAccs sq.dkey sq.gid sq.offset (squareAccs (getV s.plane v.val) sq) ≠ sq.claim → dutyHw s.plane i 2 = true →
          (epGet (getP q i) sq.epoch).status = (epGet (getP s.plane i) sq.epoch).status ||| 2#16)
      ∧ SameMemory s.plane q)
  ∧ (∀ (port : Fin 16) k rx s i g x, Passes s.plane port.val k rx i g → k.ptype = 8 → k.outcome = 0 →
    s.plane.sent.find? (ackMatches i g k) = some x → (∀ j, (getP s.plane j).rollback = none) →
    ∃ q, Settles (.ackReceive port k rx) s q ∧ q.sent = s.plane.sent.erase x ∧ q.colls = s.plane.colls
      ∧ q.flights = s.plane.flights ∧ q.vengs = s.plane.vengs ∧ SameMemory s.plane q)
  ∧ (∀ sent s x id c, s.plane.sent.find? (fun y => y.id == sent) = some x → x.coll = some id →
    getColl s.plane id = some c →
    ∃ q, Settles (.collTimeout sent) s q ∧ (∀ y ∈ q.sent, y.id = sent → y.coll = none)
      ∧ (∀ f ∈ q.flights, f.id = c.flight → f.failed = true)
      ∧ OneRecord s.plane q .collTimeout srcHub (some x.part)
          (dColl x.epoch x.cid (gGgid (getSlot s.plane x.gslot)) x.rank x.offset c.gid 0 ++ gImage s.plane x.gslot)
      ∧ q.vengs = s.plane.vengs ∧ SameMemory s.plane q)

/-- PAGE_IN (R78, R80), once its read has an answer: a context whose backing copy carries its CRC becomes resident
while its set has a way; one whose copy does not is recorded and marked as failed. GROUP_SPILL and GROUP_RESTORE
(R97), where no check of the Plaza and no access fails: the group's descriptor and entries stand at its place of the
spill area, and come back from there. The epoch in a spill image is the model's choice (log 31). -/
def Obligations.ContextsAndGroupsMove : Prop :=
  (∀ (id : BitVec 24) s, s.plane.gaz.paging.contains id.toNat = true → pageOut s.plane id.toNat = false →
    (∀ c, ctxBacking s.plane id.toNat = some c → (setMates s.plane id.toNat).length < 16 →
      ∃ q, Settles (.pageIn id) s q ∧ ctxGet q id.toNat = some c
        ∧ (∀ k, k ≠ id.toNat → ctxGet q k = ctxGet s.plane k)
        ∧ q.gaz.paging = s.plane.gaz.paging.erase id.toNat ∧ q.vengs = s.plane.vengs ∧ SameMemory s.plane q)
    ∧ (ctxBacking s.plane id.toNat = none →
      ∃ q, Settles (.pageIn id) s q ∧ q.gaz.bad = s.plane.gaz.bad ++ [id.toNat]
        ∧ q.gaz.paging = s.plane.gaz.paging.erase id.toNat
        ∧ OneRecord s.plane q .ctxPageBad srcCore none (dInstr 0 0 0 0 (toLE 4 id.toNat))
        ∧ q = { s.plane with gaz := { s.plane.gaz with bad := q.gaz.bad, paging := q.gaz.paging }, bb := q.bb }))
  ∧ (∀ (v : Fin 64) (g : Fin 80) s i, partOf s.plane v.val = some i → spillWanted s.plane v.val = true → (getG (getV s.plane v.val) g.val).st ≠ .free →
    (getG (getV s.plane v.val) g.val).spl = false → groupInUse s.plane v.val g.val = false →
    ∃ q, Settles (.groupSpill v g []) s q
      ∧ memAt q (groupAddr s.plane v.val g.val) (spillImage (getV s.plane v.val) v.val g.val).length
          = spillImage (getV s.plane v.val) v.val g.val
      ∧ getG (getV q v.val) g.val = { getG (getV s.plane v.val) g.val with spl := true }
      ∧ SamePlazaOutside s.plane q v.val [g.val]
      ∧ SameOutside s.plane q (fun a => groupAddr s.plane v.val g.val ≤ a
          ∧ a < groupAddr s.plane v.val g.val + (spillImage (getV s.plane v.val) v.val g.val).length))
  ∧ (∀ (v : Fin 64) (g : Fin 80) fails s, (getG (getV s.plane v.val) g.val).spl = true →
    (getV s.plane v.val).moveTo = none → groupFreeFor s.plane v.val g.val = true → spillOut s.plane v.val = false →
    failedReqs fails (groupAddr s.plane v.val g.val) 73792 = [] →
    ∃ q, Settles (.groupRestore v g fails) s q
      ∧ (∀ j, j < 3072 → getAcc (getV q v.val) (16 * g.val + j / 192) (j % 192)
          = (xaf136Read (memAt s.plane (groupAddr s.plane v.val g.val + 64 + 24 * j) 24)).1)
      ∧ getG (getV q v.val) g.val
          = imageGroup (getV s.plane v.val) g.val (memAt s.plane (groupAddr s.plane v.val g.val) 73792)
      ∧ SamePlazaOutside s.plane q v.val [g.val] ∧ SameMemory s.plane q)

/-- The Milestone's beginning (R235, R236, R238): an implicit close arrives for every engine of the partition; the release
of the seal Crossing ends the running phase of the epoch and keeps the account of its Milestone; with every fence
acknowledged, and every record in NVM that a count waits for, the record stands in memory, the MILESTONE cause is set and the epoch's phase says so. -/
def Obligations.MilestonesForm : Prop :=
  (∀ (i : Fin 8) s n e, s.plane.regs.state = .ready → n = (getP s.plane i.val).committed + 1 → e = epGet (getP s.plane i.val) n →
    e.implicitClose = true → e.phase = .running → e.arrived.toNat ≠ vmaskOf s.plane i.val →
    (getP s.plane i.val).rollback = none → epochBusy s.plane i.val n = false →
    (∀ v ∈ partVengs s.plane i.val, flowsDone s.plane v n = true) →
    ∃ q, Settles (.implicitClose i) s q
      ∧ (∀ v ∈ partVengs s.plane i.val, (epGet (getP q i.val) n).arrived.getLsbD v = true)
      ∧ (epGet (getP q i.val) n).phase = .running ∧ SameMemory s.plane q)
  ∧ (∀ (i : Fin 8) s, s.plane.regs.state = .ready → releasable s.plane i.val = true →
    ∃ q, Settles (.crossingRelease (.seal i)) s q
      ∧ (epGet (getP q i.val) ((getP s.plane i.val).committed + 1)).phase = .released
      ∧ (∃ a ∈ (getP q i.val).snaps, a.epoch = (getP s.plane i.val).committed + 1
          ∧ a.settings = (getP q i.val).settings ∧ a.preRound = (getP q i.val).preRound)
      ∧ (getP q i.val).committed = (getP s.plane i.val).committed)
  ∧ (∀ (i : Fin 8) s n, s.plane.regs.state = .ready → n = (getP s.plane i.val).committed + 1 →
    (epGet (getP s.plane i.val) n).phase = .fencing → countsOut s.plane i.val n = false →
    (getP s.plane i.val).rollback = none → (getP s.plane i.val).halted = none → noneStopped s.plane i.val = true →
    fencesOut s.plane i.val n = false → replicaGroup s.plane i.val = none →
    ∃ q bs, Settles (.milestoneForm i) s q
      ∧ bs = recordBytes s.plane i.val n ((getP s.plane i.val).msSeq + 1) (formSummary s.plane i.val n)
      ∧ memAt q (msAddr s.plane i.val n) bs.length = bs
      ∧ (epGet (getP q i.val) n).phase = .formed ∧ (getP q i.val).msSeq = (getP s.plane i.val).msSeq + 1
      ∧ (getP q i.val).pncause.getLsbD 0 = true
      ∧ SameOutside s.plane q (fun a => msAddr s.plane i.val n ≤ a ∧ a < msAddr s.plane i.val n + bs.length))

/-- The seal (R243, R245, R248, R254): the aggregator of the one group of the tree decides by the merged summary; a Plane
that holds VERIFIED for its formed epoch commits it, writes OUTCOME 1 and sets the OUTCOME cause; a peer's
RESTART_READY counts while this member's barrier waits. -/
def Obligations.SealsDecide : Prop :=
  (∀ (i : Fin 8) s n g a l, s.plane.regs.state = .ready → n = (getP s.plane i.val).committed + 1 → (getP s.plane i.val).rollback = none →
    dutyHw s.plane i.val 3 = true → (epGet (getP s.plane i.val) n).verdict = none → sealChain s.plane i.val = [g] →
    isAggregator s.plane g = true → (epGet (getP s.plane i.val) n).merged.contains g = false →
    allSummaries s.plane (epGet (getP s.plane i.val) n) g = some (a :: l) →
    ∃ q, Settles (.sealSummaryMerge i) s q
      ∧ (epGet (getP q i.val) n).verdict
          = some (verifies (dutyHw s.plane i.val 0) (l.foldl mergeSummary a))
      ∧ (epGet (getP q i.val) n).merged.contains g = true
      ∧ q = { s.plane with parts := q.parts })
  ∧ (∀ (i : Fin 8) s n, s.plane.regs.state = .ready → n = (getP s.plane i.val).committed + 1 →
    (getP s.plane i.val).rollback = none → (epGet (getP s.plane i.val) n).verdict = some true → (epGet (getP s.plane i.val) n).taken = false →
    (epGet (getP s.plane i.val) n).phase = .formed → (getP s.plane i.val).policy.hold = false →
    sealChain s.plane i.val = [] → fencesOut s.plane i.val n = false → (getP s.plane i.val).replay = none →
    ∃ q, Settles (.sealVerdict i true) s q ∧ (getP q i.val).committed = n ∧ (getP q i.val).rollbacks = 0
      ∧ (getP q i.val).pncause.getLsbD 1 = true
      ∧ memNatAt q (msAddr s.plane i.val n + 76) 1 % 4 = 1)
  ∧ (∀ (g : Fin 16) (r : BitVec 20) s rb, s.plane.regs.state = .ready → (getP s.plane (gPart (getSlot s.plane g.val))).rollback = some rb → rb.restored = true →
    rb.sentReady = true → (getP s.plane (gPart (getSlot s.plane g.val))).replay = none →
    (∃ k ∈ readyPeers s.plane (gPart (getSlot s.plane g.val)), k ≠ (g.val, r.toNat) ∧ k ∉ rb.got) →
    ∃ q, Settles (.restartReady g r) s q
      ∧ (∃ rb', (getP q (gPart (getSlot s.plane g.val))).rollback = some rb' ∧ (g.val, r.toNat) ∈ rb'.got
          ∧ (∀ k ∈ rb.got, k ∈ rb'.got) ∧ rb'.first = rb.first ∧ rb'.last = rb.last)
      ∧ q = { s.plane with parts := q.parts })

/-- The waits that hardware records (R108, R109, R155, R157, R246, R250, R254): one record, once; what waits is marked and
nothing else changes. -/
def Obligations.StallsRecordedOnce : Prop :=
  (∀ (cid : Fin 64) s c, s.plane.regs.state = .ready → spGet s.plane.cross cid.val = some c → c.released = false →
    c.recorded = false →
    ∃ t part, exec (.crossStall cid) s = .next t ∧ spGet t.plane.cross cid.val = some { c with recorded := true }
      ∧ OneRecord s.plane t.plane .crossStall srcCore part
          (toLE 1 cid.val ++ toLE 8 c.mask.toNat ++ toLE 8 c.arrived.toNat)
      ∧ t.plane = { s.plane with cross := t.plane.cross, bb := t.plane.bb } ∧ SameQueue s t
      ∧ exec (.crossStall cid) t = .next t)
  ∧ (∀ run s r, s.plane.heldRuns.find? (fun x => x.id == run) = some r → r.recorded = false →
    ∃ t, exec (.squareUndeclared run) s = .next t
      ∧ t.plane.heldRuns = s.plane.heldRuns.map (fun x => if x.id = run then { x with recorded := true } else x)
      ∧ OneRecord s.plane t.plane .squareUndeclared srcHub (some r.part) (toLE 32 (r.gid * 2 ^ 104 + r.offset * 2 ^ 128))
      ∧ t.plane = { s.plane with heldRuns := t.plane.heldRuns, bb := t.plane.bb } ∧ SameQueue s t
      ∧ exec (.squareUndeclared run) t = .next t)
  ∧ (∀ (v : Fin 64) (k : Fin 16) s i q sq, s.plane.regs.state = .ready → partOf s.plane v.val = some i →
    (getT s.plane v.val k.val).st = .active → (getT s.plane v.val k.val).stallRec = false →
    waitedSquare s.plane v.val k.val i = some (q, sq) →
    ∃ t, exec (.squareStall v k) s = .next t
      ∧ getT t.plane v.val k.val = { getT s.plane v.val k.val with stallRec := true }
      ∧ OneRecord s.plane t.plane .squareStall (homePort s.plane v.val) (some i) (squareImage q sq)
      ∧ t.plane = { s.plane with vengs := t.plane.vengs, bb := t.plane.bb } ∧ SameQueue s t
      ∧ exec (.squareStall v k) t = .next t)
  ∧ (∀ (v : Fin 64) s q i, s.plane.regs.state = .ready → (getV s.plane v.val).ring = some q →
    partOf s.plane v.val = some i → q.ended = false → q.detached = false → q.lagRec = false → dutyHw s.plane i 5 = false →
    (q.lagLimit ≤ lagAt q false ∨ q.lagLimit ≤ lagAt q true) → (∀ x ∈ s.plane.ringSends, x.mcast = true → x.dst ≠ v.val) →
    ∃ t, exec (.ringLag v) s = .next t ∧ (getV t.plane v.val).ring = some { q with lagRec := true }
      ∧ OneRecord s.plane t.plane .ringLag (0x40 + homePort s.plane v.val / 8) (some i) (toLE 4 (2 ^ 30 + v.val * 16 + q.slot))
      ∧ t.plane = { s.plane with vengs := t.plane.vengs, bb := t.plane.bb } ∧ SameQueue s t
      ∧ exec (.ringLag v) t = .next t)
  ∧ (∀ (v : Fin 64) s x i, s.plane.regs.state = .ready → partOf s.plane v.val = some i → dutyHw s.plane i 5 = false →
    (∀ q, (getV s.plane v.val).ring = some q → q.lagRec = true) →
    s.plane.ringSends.find? (fun y => y.mcast && y.dst == v.val) = some x → x.lagRec = false →
    mcastLimit s.plane v.val ≤ mcastLag s.plane v.val →
    ∃ t, exec (.ringLag v) s = .next t
      ∧ t.plane.ringSends = s.plane.ringSends.map (fun y =>
          if y.mcast = true ∧ y.dst = v.val then { y with lagRec := true } else y)
      ∧ OneRecord s.plane t.plane .ringLag (0x40 + homePort s.plane v.val / 8) (some i) (toLE 4 (2 ^ 30 + x.src * 16 + x.slot))
      ∧ t.plane = { s.plane with ringSends := t.plane.ringSends, bb := t.plane.bb } ∧ SameQueue s t
      ∧ exec (.ringLag v) t = .next t)
  ∧ (∀ (i : Fin 8) s n, s.plane.regs.state = .ready → n = (getP s.plane i.val).committed + 1 →
    (epGet (getP s.plane i.val) n).phase = .formed → (epGet (getP s.plane i.val) n).verdict = none → (epGet (getP s.plane i.val) n).stallRec = false →
    (getP s.plane i.val).rollback = none → dutyHw s.plane i.val 3 = true →
    ∃ q detail, Settles (.sealStall i) s q ∧ (epGet (getP q i.val) n).stallRec = true
      ∧ OneRecord s.plane q .sealStall srcCore (some i.val) detail
      ∧ q = { s.plane with parts := q.parts, bb := q.bb })
  ∧ (∀ (i : Fin 8) s n l, s.plane.regs.state = .ready → heldEpochs s.plane i.val = n :: l →
    (epGet (getP s.plane i.val) n).holdFullRec = false →
    ∃ q, Settles (.holdFull i) s q ∧ (epGet (getP q i.val) n).holdFullRec = true
      ∧ OneRecord s.plane q .holdFull srcCore (some i.val) (toLE 4 (2 ^ 31 + (getP s.plane i.val).policy.holdHq))
      ∧ q = { s.plane with parts := q.parts, bb := q.bb })
  ∧ (∀ (i : Fin 8) s rb, s.plane.regs.state = .ready → (getP s.plane i.val).rollback = some rb → rb.restored = true →
    rb.stallRec = false →
    ∃ q detail, Settles (.restartStall i) s q
      ∧ (getP q i.val).rollback = some { rb with stallRec := true }
      ∧ OneRecord s.plane q .restartStall srcCore (some i.val) detail
      ∧ q = { s.plane with parts := q.parts, bb := q.bb })

/-! ## Verbs -/

namespace Sys2Proof.Claims

/-- The request that firmware takes next is this mailbox's and the row's, its session is open and has not ended, and the
common checks of R276, R280, R281 and R308 pass. -/
structure Called (p : Plane) (m : Fin 64) (row : VerbRow) (r : Req) (x : Session) : Prop where
  next : rowReq p m.val row = some r
  session : sessionOf p m.val = some x
  ready : p.regs.state = .ready
  priv : row.priv = true → x.mgmt = true
  txn : txnError p m.val r row.txn = none

/-- The Plane when the verb runs: the RETRYs of its memory accesses are counted (R300). -/
def asked (p : Plane) (fails : Fails) : Plane := countRetries (agentPort p) fails p

/-- Number of the mailbox's session. -/
def sid (p : Plane) (m : Fin 64) : Nat := (getM p m.val).session

/-- The request as its verb's meaning takes it. -/
def callOf (p : Plane) (m : Fin 64) (r : Req) (x : Session) (fails : Fails) : Call := ⟨m.val, r, sid p m, x.part, fails⟩

/-- Bits hi to lo of Wn of a request. -/
def argOf (r : Req) (n hi lo : Nat) : Nat := bits (r.arg n) hi lo

/-- The request is taken and its response posted (R272 to R275): both indices advance, RSP is set, the slot holds V0 to V6
and the header with STATUS and PHASE, and the mailbox waits for nothing. -/
structure Answered (p q : Plane) (m : Fin 64) (r : Req) (a : Resp) : Prop where
  head : (getM q m.val).reqHead = (getM p m.val).reqHead + 1
  tail : (getM q m.val).rspTail = (getM p m.val).rspTail + 1
  rsp : (getM q m.val).rsp = true
  idle : (getM q m.val).exec = none
  order : q.order = p.order + 1
  header : memNat 0 q.mbxMem (rspSlot m.val (getM p m.val).rspTail.toNat) 8
    = (r.verb + r.reqid * 2 ^ 16 + a.status * 2 ^ 32
        + (if bit (getM p m.val).rspTail.toNat 7 then 0 else 2 ^ 63)) % 2 ^ 64
  values : ∀ k, k < 7 → memNat 0 q.mbxMem (rspSlot m.val (getM p m.val).rspTail.toNat + 8 + 8 * k) 8 = a.v.getD k 0 % 2 ^ 64

/-- Mailbox memory but the response slot, and every other mailbox, are as they were. -/
def OneMailbox (p q : Plane) (m : Fin 64) : Prop :=
  (∀ b, b < rspSlot m.val (getM p m.val).rspTail.toNat ∨ rspSlot m.val (getM p m.val).rspTail.toNat + 64 ≤ b →
    memGet 0 q.mbxMem b = memGet 0 p.mbxMem b)
  ∧ ∀ n, n ≠ m.val → getM q n = getM p n

/-- The request is taken and its verb waits (R275). -/
def Waiting (p q : Plane) (m : Fin 64) (r : Req) (w : Waits) : Prop :=
  (getM q m.val).reqHead = (getM p m.val).reqHead + 1 ∧ (getM q m.val).rspTail = (getM p m.val).rspTail
    ∧ (getM q m.val).exec = some ⟨r.verb, r.reqid, w, true⟩ ∧ q.order = p.order + 1

/-- The request's transaction has grown by the settings, nothing is applied yet, and the response says OK (R256). -/
def Stages (c : Instr) (s : State) (m : Fin 64) (fails : Fails) (r : Req) (l : List Staged) : Prop :=
  ∃ q t, Settles c s q ∧ spGet s.plane.txns r.txn = some t ∧ t.mbx = m.val
    ∧ spGet q.txns r.txn = some { t with staged := t.staged ++ l }
    ∧ (∀ h, h ≠ r.txn → spGet q.txns h = spGet s.plane.txns h)
    ∧ q = { asked s.plane fails with
        mbx := q.mbx
        mbxMem := q.mbxMem
        mbxNext := q.mbxNext
        order := q.order
        txns := q.txns }
    ∧ Answered s.plane q m r (okResp []) ∧ OneMailbox s.plane q m

/-- The transaction of the request has room for `n` more settings. -/
def HasRoom (p : Plane) (m : Fin 64) (r : Req) (n : Nat) : Prop :=
  r.inTxn = true ∧ ∀ t, spGet p.txns r.txn = some t → t.mbx = m.val → t.staged.length + n ≤ 4096

end Sys2Proof.Claims

/-- OPEN_SESSION (R276): a closed mailbox opens a session of a defined partition, the management session on mailbox 0, or
joins one by its number and cookie; CLOSE_SESSION (R278): the session is closing, its requests up to here are marked and its
transactions are dropped; a session whose lease ran out (R277) is recorded and closes the same way. Once its requests are
answered and no verb executes, its tasks end; once their slots are FREE, its mailboxes close, its programs and queues are free,
and it is gone. The number given is the lowest free one: the model's choice (log 25). -/
def Obligations.SessionsOpenAndClose : Prop :=
  (∀ m s r k, rowReq s.plane m.val openRow = some r → (getM s.plane m.val).isOpen = false → r.inTxn = false →
    bit (r.arg 0) 8 = false → (getP s.plane (argOf r 0 2 0)).defined = true → freeSession s.plane = some k →
    ∃ q x, Settles (.openSession m) s q ∧ k < 64 ∧ spGet s.plane.sessions k = none ∧ spGet q.sessions k = some x
      ∧ x.part = argOf r 0 2 0 ∧ x.mgmt = decide (m.val = 0) ∧ x.lease = argOf r 0 47 32 ∧ x.closing = false
      ∧ (∀ j, j ≠ k → spGet q.sessions j = spGet s.plane.sessions j)
      ∧ (getM q m.val).isOpen = true ∧ (getM q m.val).session = k
      ∧ Answered s.plane q m r (okResp [k, x.cookie.toNat]) ∧ OneMailbox s.plane q m)
  ∧ (∀ m s r x, rowReq s.plane m.val openRow = some r → (getM s.plane m.val).isOpen = false → r.inTxn = false →
    bit (r.arg 0) 8 = true → m.val ≠ 0 → spGet s.plane.sessions (argOf r 0 21 16) = some x → x.closing = false →
    x.cookie.toNat = argOf r 1 31 0 →
    ∃ q, Settles (.openSession m) s q ∧ q.sessions = s.plane.sessions ∧ (getM q m.val).isOpen = true
      ∧ (getM q m.val).session = argOf r 0 21 16
      ∧ Answered s.plane q m r (okResp [argOf r 0 21 16, x.cookie.toNat]) ∧ OneMailbox s.plane q m)
  ∧ (∀ m s r x, Called s.plane m closeRow r x →
    ∃ q, Settles (.closeSession m) s q ∧ spGet q.sessions (sid s.plane m) = some { x with closing := true }
      ∧ (∀ t ∈ q.txns, t.2.session ≠ sid s.plane m)
      ∧ (∀ n ∈ sessionMbxs s.plane (sid s.plane m), (getM q n).closeTail = some (getM s.plane n).reqTail)
      ∧ q.vengs = s.plane.vengs ∧ q.queues = s.plane.queues
      ∧ (sessionMbxs s.plane (sid s.plane m) = [m.val] →
          Answered s.plane q m r (okResp []) ∧ OneMailbox s.plane q m))
  ∧ (∀ (k : Fin 64) s x, spGet s.plane.sessions k.val = some x → x.lease ≠ 0 → x.closing = false →
    mbxServed s.plane = true →
    ∃ q, Settles (.sessionDetach k) s q ∧ spGet q.sessions k.val = some { x with closing := true }
      ∧ OneRecord s.plane q .sessionDetach srcCore (some x.part) (toLE 1 k.val ++ toLE 1 x.part)
      ∧ (∀ t ∈ q.txns, t.2.session ≠ k.val)
      ∧ (∀ n ∈ sessionMbxs s.plane k.val, (getM q n).closeTail = some (getM s.plane n).reqTail)
      ∧ q.vengs = s.plane.vengs ∧ q.queues = s.plane.queues)
  ∧ (∀ p k x q, spGet p.sessions k = some x → x.closing = true → q = endSession p k →
    (∀ m ∈ sessionMbxs p k, (getM p m).exec = none ∧ (getM p m).closeTail = some (getM p m).reqHead) →
    (sessionTasks p k = true →
      (∀ v j, (getT p v j).session = k → (getT p v j).st = .active ∨ (getT p v j).st = .stopped →
          (getT q v j).st = .ending ∧ (getT q v j).regs = (getT p v j).regs)
        ∧ (∀ v j, (v, j) ∉ tasksOf p k → getT q v j = getT p v j) ∧ q.sessions = p.sessions ∧ q.queues = p.queues)
    ∧ (sessionTasks p k = false → spRising p.mbx = true →
      spGet q.sessions k = none ∧ (∀ j, j ≠ k → spGet q.sessions j = spGet p.sessions j)
        ∧ (∀ m ∈ sessionMbxs p k, (getM q m).isOpen = false)
        ∧ (∀ v g, (getV q v).prog = some g → g.session ≠ k)
        ∧ (∀ n, (getQ q n).en = true → (getQ q n).session ≠ k ∧ getQ q n = getQ p n)))

/-- PARTITION_SET (R279, R354): an idle partition takes its regions, windows and rows, and starts anew, stopped only
where a fenced engine leaves a virtual engine no room. CTX_DEFINE (R283), where no access fails: the context's
backing copy, with its CRC, is the one that the definition gives, and a resident copy is written with it; FORM 2
undefines it, and its backing copy carries no CRC. What of a partition starts anew is the model's choice (log 101). -/
def Obligations.PartitionsAndContextsDefined : Prop :=
  (∀ m s r x i, Called s.plane m partRow r x → i = argOf r 0 2 0 → argOf r 0 15 8 ≠ 0 → 64 * argOf r 0 28 24 ≤ 1024 →
    (∀ n, 1 ≤ n → n ≤ 4 → windowOk (r.arg n) = true) → partBusy s.plane i = false →
    regionsTaken s.plane i (argOf r 0 15 8) = false → coefTotal s.plane i (64 * argOf r 0 28 24) ≤ 1024 →
    ∃ q, Settles (.partitionSet m) s q ∧ (getP q i).defined = true ∧ (getP q i).regions = BitVec.ofNat 8 (argOf r 0 15 8)
      ∧ (getP q i).coefCount = 64 * argOf r 0 28 24
      ∧ (getP q i).win = [windowWord (r.arg 1), windowWord (r.arg 2), windowWord (r.arg 3), windowWord (r.arg 4)]
      ∧ (getP q i).lastClosed = 0 ∧ (getP q i).committed = 0 ∧ (getP q i).epochs = [] ∧ (getP q i).rollback = none
      ∧ ((∀ e, isFenced s.plane e = false) → (getP q i).halted = none)
      ∧ (∀ j, j ≠ i → (getP q j).win = (getP s.plane j).win ∧ (getP q j).regions = (getP s.plane j).regions
          ∧ (getP q j).committed = (getP s.plane j).committed)
      ∧ Answered s.plane q m r (okResp [(getP q i).coefFirst]) ∧ OneMailbox s.plane q m)
  ∧ (∀ m fails s r x upd row cmd id supply img y,
    (upd = false ∧ row = convRow ∧ cmd = Instr.ctxDefineConversion m fails ∧ argOf r 0 25 24 ≠ 3
      ∨ upd = true ∧ row = updRow ∧ cmd = Instr.ctxDefineUpdate m fails) →
    Called s.plane m row r x → r.inTxn = false → id = argOf r 0 23 0 → supply = BitVec.ofNat 32 (argOf r 0 63 32) →
    ctxForeign (callOf s.plane m r x fails) s.plane id = false → otherKind s.plane id upd = false →
    ctxNamed s.plane x.part id = false → alignedTo (argOf r 1 51 0) 128 = true →
    (callOf s.plane m r x fails).accessOk s.plane (argOf r 1 51 0) 128 = true →
    ((definedCtx s.plane id).isSome = true ∨ needOk upd supply = true) →
    img = BitVec.ofNat 1024 (memNatAt s.plane (argOf r 1 51 0) 128) →
    y = defImage id upd supply img (definedCtx s.plane id) x.part (sid s.plane m) →
    (if upd then updStatus s.plane y else convStatus s.plane x.part fails y) = 0 → pinFull s.plane id y = false →
    (ctxPin y = true → (ctxGet s.plane id).isSome = true ∨ (setMates s.plane id).length < 16) →
    failedReqs fails (backAddr s.plane id) 128 = [] →
    ∃ q, Settles cmd s q ∧ q.gaz.defined.contains id = true ∧ memAt q (backAddr s.plane id) 128 = ctxSealed128 y
      ∧ ((ctxGet s.plane id).isSome = true ∨ ctxPin y = true → ctxGet q id = some y)
      ∧ (∀ k, k ≠ id → ctxGet q k = ctxGet s.plane k)
      ∧ SameOutside s.plane q (fun a => backAddr s.plane id ≤ a ∧ a < backAddr s.plane id + 128)
      ∧ Answered s.plane q m r (okResp []) ∧ OneMailbox s.plane q m)
  ∧ (∀ m fails s r x id, Called s.plane m relRow r x → r.inTxn = false → id = argOf r 0 23 0 →
    ctxForeign (callOf s.plane m r x fails) s.plane id = false → ctxNamed s.plane x.part id = false →
    onLists s.plane x.part id = [] → failedReqs fails (backAddr s.plane id) 128 = [] →
    ∃ q, Settles (.ctxRelease m fails) s q ∧ q.gaz.defined = s.plane.gaz.defined.erase id ∧ ctxGet q id = none
      ∧ ctxBacking q id = none ∧ (∀ k, k ≠ id → ctxGet q k = ctxGet s.plane k)
      ∧ SameOutside s.plane q (fun a => backAddr s.plane id ≤ a ∧ a < backAddr s.plane id + 128)
      ∧ Answered s.plane q m r (okResp []) ∧ OneMailbox s.plane q m)

/-- Settings are staged in a transaction and take effect when it switches (R256 to R258, R284, R286, R294): TABLE_LOAD,
SET_DUTY and KEY_SET stage what they name; TXN_BEGIN gives a free handle, TXN_COMMIT waits for its boundary, or
switches at once in a partition without tasks, TXN_ABORT drops the transaction. -/
def Obligations.SettingsStageAndSwitch : Prop :=
  (∀ m fails s r x cmd row size limit ok mk, (cmd = Instr.tableLoadActivation m fails ∧ row = actRow ∧ size = 3088 ∧ limit = 16
        ∧ argOf r 0 3 0 = 0 ∧ ok = actOk ∧ mk = (fun p k a => Staged.act k (memWords p a 772))
      ∨ cmd = Instr.tableLoadScale m fails ∧ row = scaleRow ∧ size = 4 ∧ limit = 256
        ∧ ok = (fun _ _ => true) ∧ mk = (fun p k a => Staged.scale k (memWord p a))
      ∨ cmd = Instr.tableLoadCoefficient m fails ∧ row = coefVerb ∧ size = 64 ∧ limit = (getP s.plane x.part).coefCount
        ∧ ok = rowOk ∧ mk = (fun p k a => Staged.row ((getP s.plane x.part).coefFirst + k) (memWords p a 12))) →
    Called s.plane m row r x → HasRoom s.plane m r (argOf r 0 47 32) → argOf r 1 51 0 % 16 = 0 → argOf r 0 47 32 ≠ 0 →
    argOf r 0 31 16 + argOf r 0 47 32 ≤ limit →
    (callOf s.plane m r x fails).accessOk s.plane (argOf r 1 51 0) (size * argOf r 0 47 32) = true →
    (∀ k, k < argOf r 0 47 32 → ok s.plane (argOf r 1 51 0 + size * k) = true) →
    Stages cmd s m fails r ((List.range (argOf r 0 47 32)).map (fun k =>
      mk s.plane (argOf r 0 31 16 + k) (argOf r 1 51 0 + size * k))))
  ∧ (∀ m s r x, Called s.plane m dutyRow r x → HasRoom s.plane m r 1 → argOf r 0 3 0 ≤ 11 →
    (6 ≤ argOf r 0 3 0 → argOf r 0 3 0 ≤ 9 → isMgmt s.plane (sid s.plane m) = true) →
    Stages (.setDuty m) s m [] r [.duty (argOf r 0 3 0) (bit (r.arg 0) 8)])
  ∧ (∀ m s r x, Called s.plane m keyRow r x →
    (HasRoom s.plane m r 1 →
      Stages (.keySet m) s m [] r [.key (bit (r.arg 0) 0) (argOf r 0 11 8) (BitVec.ofNat 64 (r.arg 1))])
    ∧ (r.inTxn = false → allFree s.plane x.part = true →
      ∃ q, Settles (.keySet m) s q
        ∧ (bit (r.arg 0) 0 = false → dkeyAt q x.part (argOf r 0 11 8) = BitVec.ofNat 64 (r.arg 1)
            ∧ (getP q x.part).settings.srkeys = (getP s.plane x.part).settings.srkeys)
        ∧ (bit (r.arg 0) 0 = true →
            spGetD (getP q x.part).settings.srkeys (argOf r 0 11 8) 0 = BitVec.ofNat 64 (r.arg 1)
            ∧ (getP q x.part).settings.dkeys = (getP s.plane x.part).settings.dkeys)
        ∧ Answered s.plane q m r (okResp []) ∧ OneMailbox s.plane q m))
  ∧ (∀ m s r x, Called s.plane m beginRow r x → s.plane.txns.length < 64 →
    (s.plane.txns.filter (fun t => t.2.mbx == m.val)).length < 8 →
    ∃ q h, Settles (.txnBegin m) s q ∧ h ≠ 0 ∧ spGet s.plane.txns h = none
      ∧ spGet q.txns h = some ⟨m.val, sid s.plane m, x.part, [], none⟩
      ∧ Answered s.plane q m r (okResp [h]) ∧ OneMailbox s.plane q m)
  ∧ (∀ m s r x t, Called s.plane m commitTxnRow r x → spGet s.plane.txns r.txn = some t → t.mbx = m.val →
    (getP s.plane x.part).journal.length
      + (s.plane.txns.filter (fun t => t.2.part == x.part && t.2.commit.isSome)).length < 64 →
    (bit (r.arg 0) 0 = true → sealReleased (getP s.plane x.part) (argOf r 0 63 16 - 1) = false →
      ∃ q, Settles (.txnCommit m) s q ∧ Waiting s.plane q m r (.txnSwitch r.txn)
        ∧ spGet q.txns r.txn = some { t with commit := some ⟨some (argOf r 0 63 16), s.plane.order⟩ })
    ∧ (bit (r.arg 0) 0 = false → allFree s.plane x.part = false →
      ∃ q, Settles (.txnCommit m) s q ∧ Waiting s.plane q m r (.txnSwitch r.txn)
        ∧ spGet q.txns r.txn = some { t with commit := some ⟨none, s.plane.order⟩ })
    ∧ (bit (r.arg 0) 0 = false → allFree s.plane x.part = true →
      ∃ q, Settles (.txnCommit m) s q ∧ spGet q.txns r.txn = none
        ∧ Answered s.plane q m r (okResp [epochNo (running s.plane x.part)])
        ∧ (∀ idx v, t.staged = [.scale idx v] → idx ≠ 0 → scaleAt q x.part idx = v)
        ∧ (∀ d b, t.staged = [.duty d b] → 6 ≤ d → d ≤ 9 → q.duties.getLsbD d = b)))
  ∧ (∀ m s r x t, Called s.plane m abortRow r x → spGet s.plane.txns r.txn = some t → t.mbx = m.val →
    ∃ q, Settles (.txnAbort m) s q ∧ spGet q.txns r.txn = none
      ∧ (∀ h, h ≠ r.txn → spGet q.txns h = spGet s.plane.txns h)
      ∧ Answered s.plane q m r (okResp []) ∧ OneMailbox s.plane q m)

/-- PROGRAM_LOAD (R284): the image's program, buffer parts and queues belong to the virtual engines named and to the
session. TASK_START (R285): on an ACTIVE host the task runs from its PC in the running epoch, s1 to s6 holding W1 to W6.
TASK_STOP (R165): the slot is ENDING and the verb waits for it; a FREE slot is answered at once. PEER_UPDATE (R287): the
slot's table takes the whole list. -/
def Obligations.ProgramsAndTasks : Prop :=
  (∀ m fails s r x h, Called s.plane m progRow r x → h = progHdr s.plane (argOf r 1 51 0) →
    (callOf s.plane m r x fails).accessOk s.plane (argOf r 1 51 0) 128 = true →
    h.ver = 1 → h.ninsn ≠ 0 → h.ninsn ≤ 2 ^ 20 → h.nrange ≤ 8 → bufCfgOk h.cfg = true →
    progForeign s.plane x.part (upTo 64 (fun v => bit (r.arg 0) v)) (claimed h) = false →
    progBusy s.plane (upTo 64 (fun v => bit (r.arg 0) v)) = false →
    ∃ q, Settles (.programLoad m fails) s q
      ∧ (∀ v, v < 64 → bit (r.arg 0) v = true →
          (∃ g, (getV q v).prog = some g ∧ g.addr = argOf r 1 51 0 ∧ g.ninsn = h.ninsn ∧ g.session = sid s.plane m)
          ∧ (getV q v).bufCfg = BitVec.ofNat 32 (h.cfg % 2 ^ 24))
      ∧ (∀ v, (v < 64 → bit (r.arg 0) v = false) → getV q v = getV s.plane v)
      ∧ (∀ k, k < 256 → bit h.claims k = true → (getQ q k).en = true ∧ (getQ q k).part = x.part
          ∧ (getQ q k).session = sid s.plane m ∧ (getQ q k).items = (getQ s.plane k).items)
      ∧ Answered s.plane q m r (okResp []) ∧ OneMailbox s.plane q m)
  ∧ (∀ m s r x k v, Called s.plane m startRow r x → startCheck r.w x.part s.plane = .ok k → v = argOf r 0 5 0 →
    (getPhys s.plane (homePort s.plane v)).power = .active →
    ∃ q, Settles (.taskStart m) s q ∧ (getT s.plane v k).st = .free ∧ (getT q v k).st = .active
      ∧ (getT q v k).epoch = running s.plane x.part ∧ (getT q v k).session = sid s.plane m
      ∧ (getT q v k).regs.pc = argOf r 0 51 32 ∧ (getT q v k).regs.loops = []
      ∧ (∀ j : BitVec 5, rGet (getT q v k).regs j
          = if 1 ≤ j.toNat ∧ j.toNat ≤ 6 then r.w.getD j.toNat 0 % 2 ^ 64 else 0)
      ∧ (∀ u j, u ≠ v ∨ j ≠ k → getT q u j = getT s.plane u j)
      ∧ Answered s.plane q m r (okResp [k, epochNo (running s.plane x.part)]) ∧ OneMailbox s.plane q m)
  ∧ (∀ m s r x v k, Called s.plane m stopRow r x → v = argOf r 0 5 0 → k = argOf r 0 11 8 →
    partOf s.plane v = some x.part →
    ((getT s.plane v k).st = .free →
      ∃ q, Settles (.taskStop m) s q ∧ Answered s.plane q m r (okResp []) ∧ OneMailbox s.plane q m ∧ q.vengs = s.plane.vengs)
    ∧ ((getT s.plane v k).st ≠ .free → (getT s.plane v k).session = sid s.plane m →
      ∃ q, Settles (.taskStop m) s q ∧ (getT q v k).st = .ending ∧ (getT q v k).regs = (getT s.plane v k).regs
        ∧ Waiting s.plane q m r (.slotFree v k) ∧ (∀ u j, u ≠ v ∨ j ≠ k → getT q u j = getT s.plane u j)))
  ∧ (∀ m fails s r x g t y, Called s.plane m peerRow r x → g = argOf r 0 3 0 →
    (gEn (getSlot s.plane g) = true → gPart (getSlot s.plane g) = x.part) →
    (bit (r.arg 0) 4 = true → argOf r 2 25 24 ≠ 3 ∧ descFree s.plane x.part g (r.arg 2) = true) →
    (callOf s.plane m r x fails).accessOk s.plane (argOf r 1 51 0) (16 * argOf r 0 31 16) = true →
    y = (if bit (r.arg 0) 4 then descOf s.plane x.part g (r.arg 2) else getSlot s.plane g) →
    peerList (gLevel y) 0 ((List.range (argOf r 0 31 16)).map (fun k => memNatAt s.plane (argOf r 1 51 0 + 16 * k) 16))
      (peerTable s.plane g) = .ok t → peersApart (gLevel y) t = true →
    ∃ q, Settles (.peerUpdate m fails) s q ∧ (∀ k, k < 4096 → getPeer q g k = spGetD t k 0)
      ∧ (∀ h k, h ≠ g → k < 4096 → getPeer q h k = getPeer s.plane h k)
      ∧ gGgid (getSlot q g) = gGgid y ∧ gEn (getSlot q g) = gEn y ∧ gPart (getSlot q g) = gPart y
      ∧ Answered s.plane q m r (okResp [(getP s.plane x.part).committed]) ∧ OneMailbox s.plane q m)

/-- SEAL_QUERY (R251), COMMIT_POLICY (R247, R255, R288) and REPLAY_SEGMENT (R289). -/
def Obligations.PolicyVerbs : Prop :=
  (∀ m s r x, Called s.plane m queryRow r x →
    (bit (r.arg 0) 24 = true → ∃ q, Settles (.sealQuery m) s q
      ∧ Answered s.plane q m r (okResp [0, (getP s.plane x.part).committed, epochNo (running s.plane x.part)]) ∧ OneMailbox s.plane q m)
    ∧ (∀ c, bit (r.arg 0) 24 = false → definedCtx s.plane (argOf r 0 23 0) = some c → ctxIsUpd c = false → ctxPart c = x.part →
      ∃ q, Settles (.sealQuery m) s q ∧ OneMailbox s.plane q m
        ∧ Answered s.plane q m r (okResp [(if ctxVer c then 1 else 0)
              + (if (getP s.plane x.part).policy.hold = false ∧ onLists s.plane x.part (argOf r 0 23 0) ≠ [] then 2 else 0),
            (getP s.plane x.part).committed, epochNo (running s.plane x.part),
            (onLists s.plane x.part (argOf r 0 23 0)).headD 0])))
  ∧ (∀ m s r x sg rg, Called s.plane m policySetRow r x → argOf r 0 2 0 = 0 → uncommitted (getP s.plane x.part) = false →
    sg = (if bit (r.arg 0) 16 then some (argOf r 0 15 12) else none) →
    rg = (if bit (r.arg 0) 24 then some (argOf r 0 23 20) else none) →
    slotForeign s.plane x.part sg = false → slotForeign s.plane x.part rg = false →
    (bit (r.arg 0) 8 = true → (getQ s.plane (argOf r 0 39 32)).en = true →
      (getQ s.plane (argOf r 0 39 32)).part = x.part) →
    ∃ q, Settles (.commitPolicySet m) s q ∧ (getP q x.part).policy = ⟨bit (r.arg 0) 8, sg, rg, argOf r 0 39 32⟩
      ∧ { getP q x.part with policy := (getP s.plane x.part).policy } = getP s.plane x.part
      ∧ Answered s.plane q m r (okResp [(getP s.plane x.part).committed]) ∧ OneMailbox s.plane q m)
  ∧ (∀ m s r x n, Called s.plane m policyContinueRow r x → n = argOf r 1 47 0 → (getP s.plane x.part).committed < n →
    (epGet (getP s.plane x.part) n).phase = .formed → (epGet (getP s.plane x.part) n).hostHold = true →
    dutyHw s.plane x.part 3 = false → (getP s.plane x.part).replay = none →
    ∃ q, Settles (.commitPolicyContinue m) s q ∧ (epGet (getP q x.part) n).hostHold = false
      ∧ Answered s.plane q m r (okResp [n]) ∧ OneMailbox s.plane q m)
  ∧ (∀ m s r x n, Called s.plane m policyRollbackRow r x → n = argOf r 1 47 0 → (getP s.plane x.part).committed < n →
    n ≤ latestEpoch s.plane x.part → (getP s.plane x.part).defined = true → (getP s.plane x.part).rollback = none →
    reqsOf s.plane x.part = true →
    ∃ q rb, Settles (.commitPolicyRollback m) s q ∧ Waiting s.plane q m r (.restored x.part n)
      ∧ (getP q x.part).rollback = some rb ∧ rb.cause = 1 ∧ rb.first = (getP s.plane x.part).committed + 1
      ∧ rb.restored = false ∧ n ≤ rb.last)
  ∧ (∀ m s r x n, Called s.plane m policyCommitRow r x → n = argOf r 1 47 0 → n = (getP s.plane x.part).committed + 1 →
    dutyHw s.plane x.part 3 = false → (epGet (getP s.plane x.part) n).phase = .formed →
    (epGet (getP s.plane x.part) n).taken = false → (getP s.plane x.part).rollback = none →
    (getP s.plane x.part).policy.hold = false → fencesOut s.plane x.part n = false → (getP s.plane x.part).replay = none →
    ∃ q, Settles (.commitPolicyCommit m) s q ∧ (getP q x.part).committed = n ∧ (getP q x.part).pncause.getLsbD 1 = true
      ∧ Answered s.plane q m r (okResp [n]))
  ∧ (∀ m s r x w, Called s.plane m policyResumeRow r x → (getP s.plane x.part).halted = some w →
    ∃ q, Settles (.commitPolicyResume m) s q ∧ (getP q x.part).halted = none ∧ (getP q x.part).rollbacks = 0
      ∧ (∀ v ∈ partVengs s.plane x.part, ∀ k, (getT s.plane v k).st = .stopped →
          getT q v k = { getT s.plane v k with st := .active })
      ∧ (∀ v k, v ∉ partVengs s.plane x.part ∨ (getT s.plane v k).st ≠ .stopped → getT q v k = getT s.plane v k)
      ∧ Answered s.plane q m r (okResp [epochNo (running s.plane x.part)]) ∧ OneMailbox s.plane q m)
  ∧ (∀ m fails s r x c first last, Called s.plane m replayRow r x → c = callOf s.plane m r x fails →
    first = argOf r 0 47 0 → last = argOf r 1 47 0 → first ≠ 0 → first ≤ last → last ≤ first + 63 → argOf r 5 19 16 ≤ 8 →
    replayBusy s.plane x.part = false → c.accessOk s.plane (argOf r 4 51 0) (64 * argOf r 5 15 0) = true →
    disputedFault c s.plane (argOf r 5 19 16) (argOf r 6 51 0) = none →
    (startAll c.s c.i ((List.range (argOf r 5 15 0)).map (taskWords s.plane (argOf r 4 51 0)))
      (replayPrepare c first last (argOf r 5 19 16) (asked s.plane fails))).isSome = true →
    ∃ q y, Settles (.replaySegment m fails) s q ∧ Waiting s.plane q m r (.replay x.part)
      ∧ (getP q x.part).replay = some y ∧ y.first = first ∧ y.last = last ∧ y.policy = (getP s.plane x.part).policy
      ∧ (getP q x.part).committed = first - 1)

/-- FENCE_ENGINE, UNFENCE_ENGINE and SCAN_ENGINE (R291, R344 to R347): the mask bit is set or cleared and its NVM copy is under
way; a scan runs on a fenced engine that hosts nothing, and its end gives the outcome to the engine and to a record. -/
def Obligations.EnginesFenceAndScan : Prop :=
  (∀ m s r x e, Called s.plane m fenceRow r x → e = argOf r 0 5 0 → (getPhys s.plane e).scanning = false →
    isFenced s.plane e = false → fencedIn s.plane (e / 8) < 3 →
    (movesOff (markFence s.plane e (some s.plane.order) 0) e).isSome = true →
    ∃ q, Settles (.fenceEngine m) s q ∧ (getPhys q e).fieldFence = true ∧ isFenced q e = true
      ∧ (∀ k, k ≠ e → getPhys q k = getPhys s.plane k)
      ∧ q.nvm.writes.length = s.plane.nvm.writes.length + 1
      ∧ Waiting s.plane q m r (.fence e s.plane.order))
  ∧ (∀ m s r x e, Called s.plane m unfenceRow r x → e = argOf r 0 5 0 → isFactory s.plane e = false →
    isFenced s.plane e = true → (getPhys s.plane e).scanning = false → (getPhys s.plane e).scanPassed = true →
    ∃ q, Settles (.unfenceEngine m) s q ∧ (getPhys q e).fieldFence = false ∧ (getPhys q e).scanPassed = false
      ∧ q.nvm.writes.length = s.plane.nvm.writes.length + 1 ∧ Waiting s.plane q m r (.nvm s.plane.order))
  ∧ (∀ m s r x e, Called s.plane m scanRow r x → e = argOf r 0 5 0 → isFenced s.plane e = true → anyScan s.plane = false →
    boundTo s.plane e = [] → hostedOn s.plane e = [] →
    ∃ q, Settles (.scanEngine m) s q ∧ (getPhys q e).scanning = true
      ∧ (∀ k, k ≠ e → getPhys q k = getPhys s.plane k) ∧ Waiting s.plane q m r (.scan e))
  ∧ (∀ res s x, s.plane.phys.find? (fun x => x.2.scanning && x.2.power == .active) = some x →
    ∃ q, Settles (.scanComplete res) s q ∧ (getPhys q x.1).scanning = false
      ∧ (getPhys q x.1).scanPassed = ((getPhys s.plane x.1).scanPassed || setOk s.plane && res.failing.isEmpty)
      ∧ (setOk s.plane = true → res.failing = [] → OneRecord s.plane q .scanPass x.1 none [])
      ∧ (setOk s.plane = true → res.failing ≠ [] →
          OneRecord s.plane q .scanFail x.1 none ((res.failing.take 8).flatMap (toLE 4)))
      ∧ (setOk s.plane = false → OneRecord s.plane q .scanSetBad x.1 none []))

/-- The verbs that report (R281, R292, R321, R328, R337, R342): each answers with what it names, and copies to
memory what it copies. V1 of BLACKBOX_READ, the position after the last record examined, is the model's choice (log
112). -/
def Obligations.ReportsAnswer : Prop :=
  (∀ m fails s r x rs, Called s.plane m readRow r x → argOf r 1 31 0 ≤ 65536 → argOf r 2 51 0 % 64 = 0 →
    bit (r.arg 3) 0 = false → r.arg 0 ≤ s.plane.bb.nextSeq →
    rs = takeRecs (visibleTo (isMgmt s.plane (sid s.plane m)) x.part) (argOf r 1 31 0)
        (((ringOrder s.plane.bb).filter (fun y => decide (r.arg 0 ≤ y.seq))).map (fun y => (y.seq, y)))
        (max (r.arg 0) (((ringOrder s.plane.bb).head?.map Rec.seq).getD s.plane.bb.nextSeq)) →
    memOk s.plane x.part (argOf r 2 51 0) (rs.1.flatMap recBytes).length = true →
    failedReqs fails (argOf r 2 51 0) (rs.1.flatMap recBytes).length = [] →
    ∃ q, Settles (.blackboxRead m fails) s q
      ∧ memAt q (argOf r 2 51 0) (rs.1.flatMap recBytes).length = rs.1.flatMap recBytes
      ∧ SameOutside s.plane q (fun a => argOf r 2 51 0 ≤ a ∧ a < argOf r 2 51 0 + (rs.1.flatMap recBytes).length)
      ∧ Answered s.plane q m r (okResp [rs.1.length, rs.2,
          ((ringOrder s.plane.bb).head?.map Rec.seq).getD s.plane.bb.nextSeq]) ∧ OneMailbox s.plane q m)
  ∧ (∀ m fails s r x, Called s.plane m ledgerRow r x → argOf r 0 51 0 % 4096 = 0 → bit (r.arg 1) 0 = false →
    memOk s.plane x.part (argOf r 0 51 0) 32768 = true →
    (failedReqs fails (argOf r 0 51 0) (latestImage s.plane).length).isEmpty = true →
    ∃ q, Settles (.ledgerRead m fails) s q
      ∧ memAt q (argOf r 0 51 0) (latestImage s.plane).length = latestImage s.plane
      ∧ Answered s.plane q m r (okResp [32768, latestSeq s.plane]) ∧ OneMailbox s.plane q m)
  ∧ (∀ m s r x, Called s.plane m marginRow r x →
    ∃ q, Settles (.marginReport m) s q
      ∧ (∀ k, k < 8 → (getRg q k).slackMin = (getRg s.plane k).slack
          ∧ { getRg q k with slackMin := (getRg s.plane k).slackMin } = getRg s.plane k)
      ∧ Answered s.plane q m r (okResp [slackWord s.plane Region.slack, slackWord s.plane Region.slackMin, pacedMask s.plane])
      ∧ OneMailbox s.plane q m)
  ∧ (∀ m s r x, Called s.plane m timeRow r x → s.plane.bb.queue.length < 4096 →
    ∃ q, Settles (.timeNote m) s q
      ∧ OneRecord s.plane q .timeNote srcCore none (toLE 8 (r.arg 0) ++ toLE 4 (argOf r 1 31 0))
      ∧ Waiting s.plane q m r (.nvm s.plane.order))
  ∧ (∀ m fails s r x n, Called s.plane m attestRow r x → 384 ≤ argOf r 2 31 0 →
    (callOf s.plane m r x fails).accessOk s.plane (argOf r 0 51 0) 32 = true →
    memOk s.plane x.part (argOf r 1 51 0) 384 = true → n = (attestBody s.plane (memAt s.plane (argOf r 0 51 0) 32)).length →
    failedReqs fails (argOf r 1 51 0) (n + 64) = [] →
    ∃ q, Settles (.attest m fails) s q ∧ memAt q (argOf r 1 51 0) n = attestBody s.plane (memAt s.plane (argOf r 0 51 0) 32)
      ∧ SameOutside s.plane q (fun a => argOf r 1 51 0 ≤ a ∧ a < argOf r 1 51 0 + n + 64)
      ∧ Answered s.plane q m r (okResp [384]) ∧ OneMailbox s.plane q m)
  ∧ (∀ m s r, peekReq s.plane m.val = some r → verbCodes.contains r.verb = false →
    ∃ q, Settles (.badVerb m) s q ∧ Answered s.plane q m r (errResp 1) ∧ OneMailbox s.plane q m
      ∧ q = { s.plane with mbx := q.mbx, mbxMem := q.mbxMem, mbxNext := q.mbxNext, order := q.order })

/-! ## The control port -/

namespace Sys2Proof.Claims

/-- The rows that are control-port writes. -/
def isPortWrite : Instr → Bool
  | .mbxDb _ _ => true
  | .mbxRspHead _ _ => true
  | .mbxStatus _ _ => true
  | .plNcause _ => true
  | .plPncause _ _ => true
  | .baseRegisterWrite _ _ => true
  | .registerWrite _ _ _ => true
  | _ => false

/-- The registers that answer a control-port write: data 0 and the error bit. -/
def answers (g : Regs) (err : Bool) : Regs :=
  { g with
    rspData := 0
    rspErr := err }

/-- A write took effect on one mailbox alone. -/
def WritesMailbox (c : Instr) (s : State) (m : Nat) (x : Mbx) : Prop :=
  ∃ q, Settles c s q ∧ getM q m = x ∧ (∀ n, n ≠ m → getM q n = getM s.plane n)
    ∧ q = { s.plane with mbx := q.mbx, regs := answers s.plane.regs false }

/-- A write took effect on one partition's page alone. -/
def WritesPart (c : Instr) (s : State) (i : Nat) (x : Part) : Prop :=
  ∃ q, Settles c s q ∧ getP q i = x ∧ (∀ j, j ≠ i → getP q j = getP s.plane j)
    ∧ q = { s.plane with parts := q.parts, regs := answers s.plane.regs false }

/-- A write took effect on the plane page alone. -/
def WritesRegs (c : Instr) (s : State) (g : Regs) : Prop :=
  Settles c s { s.plane with regs := answers g false }

/-- Distance of a tail counter from HEAD, modulo 256. -/
def fromHead (x : Mbx) (t : BitVec 8) : Nat := (t - x.reqHead).toNat

/-- A word as mailbox memory keeps it: the reserved bits 15:9 and 63:48 of a request's header stay 0 (R6, R272). -/
def slotWord (off : Nat) (w : U64) : Nat :=
  if off % 0x4000 < 0x2000 ∧ off % 64 = 0 then w.toNat % 2 ^ 9 + w.toNat / 2 ^ 16 % 2 ^ 32 * 2 ^ 16 else w.toNat

/-- Bits [51:lo] of a written word, in place. -/
def baseBits (w : U64) (lo : Nat) : BitVec 52 := BitVec.ofNat 52 (w.toNat % 2 ^ 52 / 2 ^ lo * 2 ^ lo)

end Sys2Proof.Claims

/-- Writes through the control port (R267 to R270, R273, R274, R295). In a cold reset every write is ignored with RSP_ERR.
Outside one: a doorbell moves TAIL when the new tail lies at most 128 from HEAD and not before the old one, and otherwise
sets DB_ERR; MBX_RSP takes the host's head; cause and status bits clear where a 1 is written; a base register takes its
implemented bits unless a program locks it; a byte of mailbox memory takes its enabled byte. -/
def Obligations.RegisterWrites : Prop :=
  (∀ c s, isPortWrite c = true → (s.plane.regs.held = .cold ∨ s.plane.regs.held = .power) →
    Settles c s { s.plane with regs := answers s.plane.regs true })
  ∧ (∀ m data s, heldCold s.plane = false → s.plane.regs.state = .ready ∨ s.plane.regs.state = .halted →
    let x := getM s.plane m.val
    let t := BitVec.ofNat 8 data.toNat
    WritesMailbox (.mbxDb m data) s m.val
      (if fromHead x t ≤ 128 ∧ fromHead x x.reqTail ≤ fromHead x t then { x with reqTail := t } else { x with dbErr := true }))
  ∧ (∀ m data s, heldCold s.plane = false → s.plane.regs.state ≠ .ready → s.plane.regs.state ≠ .halted →
    WritesRegs (.mbxDb m data) s s.plane.regs)
  ∧ (∀ m (data : U64) s, heldCold s.plane = false →
    WritesMailbox (.mbxRspHead m data) s m.val
      { getM s.plane m.val with rspHead := BitVec.ofNat 8 (data.toNat / 2 ^ 8) })
  ∧ (∀ m (data : U64) s, heldCold s.plane = false →
    WritesMailbox (.mbxStatus m data) s m.val
      { getM s.plane m.val with
        dbErr := (getM s.plane m.val).dbErr && !data.getLsbD 9
        rsp := (getM s.plane m.val).rsp && !data.getLsbD 8 })
  ∧ (∀ (data : U64) s, heldCold s.plane = false →
    ∃ g, WritesRegs (.plNcause data) s g ∧ g = { s.plane.regs with ncause := g.ncause }
      ∧ ∀ k, k < 5 → g.ncause.getLsbD k = (s.plane.regs.ncause.getLsbD k && !data.getLsbD k))
  ∧ (∀ i (data : U64) s, heldCold s.plane = false →
    ∃ x, WritesPart (.plPncause i data) s i.val x ∧ x = { getP s.plane i.val with pncause := x.pncause }
      ∧ ∀ k, k < 7 → x.pncause.getLsbD k = ((getP s.plane i.val).pncause.getLsbD k && !data.getLsbD k))
  ∧ (∀ data s, heldCold s.plane = false → locked s.plane = false →
    WritesRegs (.baseRegisterWrite .ctx data) s { s.plane.regs with ctxBase := baseBits data 31 }
    ∧ WritesRegs (.baseRegisterWrite .hist data) s { s.plane.regs with histBase := baseBits data 21 }
    ∧ WritesRegs (.baseRegisterWrite .spill data) s { s.plane.regs with spillBase := baseBits data 31 })
  ∧ (∀ data s, heldCold s.plane = false → locked s.plane = true →
    WritesRegs (.baseRegisterWrite .ctx data) s s.plane.regs
    ∧ WritesRegs (.baseRegisterWrite .hist data) s s.plane.regs
    ∧ WritesRegs (.baseRegisterWrite .spill data) s s.plane.regs)
  ∧ (∀ i data s, heldCold s.plane = false →
    (partLocked s.plane i.val = false →
      WritesPart (.baseRegisterWrite (.ms i) data) s i.val { getP s.plane i.val with msBase := baseBits data 23 })
    ∧ (partLocked s.plane i.val = true → WritesRegs (.baseRegisterWrite (.ms i) data) s s.plane.regs))
  ∧ (∀ (a : BitVec 21) be (data : U64) s, heldCold s.plane = false → 0x100000 ≤ a.toNat →
    ∃ q, Settles (.registerWrite a be data) s q
      ∧ q = { s.plane with mbxMem := q.mbxMem, regs := answers s.plane.regs false }
      ∧ (∀ k, k < 8 → memGet 0 q.mbxMem (a.toNat - 0x100000 + k)
          = if be.getLsbD k then BitVec.ofNat 8 (slotWord (a.toNat - 0x100000) data / 2 ^ (8 * k))
            else memGet 0 s.plane.mbxMem (a.toNat - 0x100000 + k))
      ∧ (∀ b, b < a.toNat - 0x100000 ∨ a.toNat - 0x100000 + 8 ≤ b → memGet 0 q.mbxMem b = memGet 0 s.plane.mbxMem b))
  ∧ (∀ data s, heldCold s.plane = false →
    WritesRegs (.registerWrite 0x88 0xFF data) s { s.plane.regs with nen := BitVec.ofNat 5 data.toNat }
    ∧ WritesRegs (.registerWrite 0x90 0xFF data) s { s.plane.regs with nline := BitVec.ofNat 4 data.toNat }
    ∧ WritesRegs (.registerWrite 0x38 0xFF data) s { s.plane.regs with bbmBase := baseBits data 12 })
  ∧ (∀ (a : BitVec 21) be data s, heldCold s.plane = false → a.toNat < 0x100000 →
    (0x10000 ≤ a.toNat ∨ a.toNat % 8 ≠ 0 ∨ be ≠ 0xFF#8) → WritesRegs (.registerWrite a be data) s s.plane.regs)

/-! ## Memory and collective ports -/

/-- Memory ports (R194, R300, R301) and collective ports (R303), with their watchdogs (R320). A final OK takes the request off
its port; ERROR, or a RETRY after three reissues, fails its instruction and is recorded; a RETRY leaves it on the port with its
tag; a response that answers nothing is recorded. A host reset completes every request with ERROR and holds the new ones, and
its release lets them out. -/
def Obligations.PortEvents : Prop :=
  (∀ port tag status s r, portsRun s.plane = true → (getRg s.plane (port.val / 8)).quarantined = false →
    (getMP s.plane port.val).reqs.find? (fun r => r.tag == tag.val) = some r →
    (getMP s.plane port.val).waiting = [] → r.owner ≠ .mirror →
    (status = 0#2 →
      ∃ q, Settles (.mempResponse port tag status) s q
        ∧ (getMP q port.val).reqs = (getMP s.plane port.val).reqs.filter (fun x => x.tag != tag.val)
        ∧ (∀ n, n ≠ port.val → getMP q n = getMP s.plane n) ∧ q.flights = s.plane.flights ∧ SameStore s.plane q)
    ∧ (status = 2#2 → r.retries < 3 →
      ∃ q, Settles (.mempResponse port tag status) s q
        ∧ (getMP q port.val).reqs = (getMP s.plane port.val).reqs.map
            (fun x => if x.tag = tag.val then { x with retries := x.retries + 1 } else x)
        ∧ (∀ n, n ≠ port.val → getMP q n = getMP s.plane n) ∧ q.flights = s.plane.flights ∧ SameStore s.plane q)
    ∧ (∀ id f, status = 1#2 ∨ status = 3#2 ∨ (status = 2#2 ∧ 3 ≤ r.retries) → r.owner = .flight id →
        s.plane.flights.find? (fun f => f.id == id) = some f →
      ∃ q, Settles (.mempResponse port tag status) s q
        ∧ (getMP q port.val).reqs = (getMP s.plane port.val).reqs.filter (fun x => x.tag != tag.val)
        ∧ (∀ n, n ≠ port.val → getMP q n = getMP s.plane n)
        ∧ q.flights = s.plane.flights.map (fun x => if x.id = id then
            { x with
              failed := true
              bad := x.bad ++ (if r.op = .read then [(r.addr, r.len)] else []) } else x)
        ∧ SameOutside s.plane q (fun a => r.op = .write ∧ r.addr ≤ a ∧ a < r.addr + r.len)
        ∧ OneRecord s.plane q .memError (homePort s.plane f.veng) r.part
            (dExec f.veng f.slot 0 0 0 0 (r.addr % 2 ^ 52 + r.tag * 2 ^ 52 + port.val * 2 ^ 58))))
  ∧ (∀ port tag status s, portsRun s.plane = true → (getRg s.plane (port.val / 8)).quarantined = false →
    (getMP s.plane port.val).reqs.find? (fun r => r.tag == tag.val) = none →
    ∃ q, Settles (.mempResponse port tag status) s q ∧ q = { s.plane with bb := q.bb }
      ∧ OneRecord s.plane q .portProtocol (0x40 + port.val / 8) (partOfRegion s.plane (port.val / 8))
          (dPort port.val 0 [tag.val] 0))
  ∧ (∀ port s, ∃ q, Settles (.mempHrst port) s q ∧ (getMP q port.val).hrst = true ∧ (getMP q port.val).reqs = []
      ∧ (∀ r ∈ (getMP s.plane port.val).reqs, ∀ id, r.owner = .flight id → ∀ f ∈ q.flights, f.id = id → f.failed = true)
      ∧ q.flights.length = s.plane.flights.length)
  ∧ (∀ port s r rest, (getMP s.plane port.val).reqs = [] → (getMP s.plane port.val).waiting = r :: rest →
    ∃ q k, Settles (.mempHrstRelease port) s q ∧ (getMP q port.val).hrst = false
      ∧ (getMP q port.val).reqs.head? = some { r with tag := k }
      ∧ (∀ n, n ≠ port.val → getMP q n = getMP s.plane n) ∧ q = { s.plane with memp := q.memp })
  ∧ (∀ port s, ∃ q, Settles (.colpHrst port) s q
      ∧ getCP q port.val = ⟨0, 512, [], (getCP s.plane port.val).txq, false⟩
      ∧ (∀ n, n ≠ port.val → getCP q n = getCP s.plane n) ∧ q = { s.plane with colp := q.colp })
  ∧ (∀ port s, portsRun s.plane = true →
    ((getCP s.plane port.val).credits < 4095 → (getCP s.plane port.val).txq = [] →
      ∃ q, Settles (.colpTxCredit port) s q ∧ (getCP q port.val).credits = (getCP s.plane port.val).credits + 1
        ∧ (∀ n, n ≠ port.val → getCP q n = getCP s.plane n) ∧ q = { s.plane with colp := q.colp, regions := q.regions })
    ∧ (4095 ≤ (getCP s.plane port.val).credits →
      ∃ q, Settles (.colpTxCredit port) s q ∧ q = { s.plane with bb := q.bb }
        ∧ OneRecord s.plane q .portProtocol (0x40 + port.val / 2) (partOfRegion s.plane (port.val / 2))
            (dPort port.val 0 [] 0)))
  ∧ (∀ n s, (getRg s.plane (n.val / 8)).quarantined = false →
    ((getMP s.plane n.val).stallRec = false → (getMP s.plane n.val).reqs ++ (getMP s.plane n.val).waiting ≠ [] →
      ∃ q, Settles (.portStall (.mem n)) s q ∧ getMP q n.val = { getMP s.plane n.val with stallRec := true }
        ∧ OneRecord s.plane q .portStall (0x40 + n.val / 8) (partOfRegion s.plane (n.val / 8))
            (dPort n.val 0 ((getMP s.plane n.val).reqs.map PReq.tag) 0))
    ∧ ((getMP s.plane n.val).stallRec = true → Settles (.portStall (.mem n)) s s.plane))
  ∧ (∀ n s, (getRg s.plane (n.val / 2)).quarantined = false →
    (getCP s.plane n.val).stallRec = false → (getCP s.plane n.val).txq ≠ [] →
    ∃ q, Settles (.portStall (.coll n)) s q ∧ getCP q n.val = { getCP s.plane n.val with stallRec := true }
      ∧ OneRecord s.plane q .portStall (0x40 + n.val / 2) (partOfRegion s.plane (n.val / 2)) (dPort n.val 0 [] 0))

/-! ## Pins, sensors, hardware checks -/

/-- Input lines and straps (R306 to R308, R310, R316): a level is taken; an event of a line that is not ignored is recorded
with the edges counted since the last; a stuck line is recorded once and ignored until it is released. -/
def Obligations.InputLines : Prop :=
  (∀ level s, ∃ q, Settles (.quiesceN level) s q ∧ q.pins = { s.plane.pins with quiesceN := level }
      ∧ q = { s.plane with pins := q.pins, colp := q.colp, regions := q.regions }
      ∧ (level = false → q.colp = s.plane.colp))
  ∧ (∀ level s, ∃ q, Settles (.paceIn level) s q ∧ q.pins = { s.plane.pins with paceIn := level }
      ∧ q = { s.plane with pins := q.pins, regions := q.regions }
      ∧ (∀ r, r < 8 → (getRg q r).level
          = if s.plane.duties.getLsbD 7 = true then level.toNat else (getRg s.plane r).level))
  ∧ (∀ edges s, coreRuns s.plane = true → 0 ∉ s.plane.pins.ignored →
    ∃ q, Settles (.pwrWarn edges) s q ∧ spGetD q.pins.edges 0 0 = 0
      ∧ OneRecord s.plane q .hostEvent srcCore none (dPort 0 (min 255 (spGetD s.plane.pins.edges 0 0 + edges.toNat)) [] 0)
      ∧ spGetD q.ledger.cnt 25 0 = min (spGetD s.plane.ledger.cnt 25 0 + 1) (2 ^ 64 - 1)
      ∧ (s.plane.regs.state = .ready → q.nvm.writes.any isLedgerWrite = true))
  ∧ (∀ level s, ∃ q, Settles (.thermWarn level) s q ∧ q.pins.therm = level
      ∧ (level = true → s.plane.pins.therm = false → coreRuns s.plane = true →
          OneRecord s.plane q .hostEvent srcCore none (dPort 1 (min 255 (spGetD s.plane.pins.edges 1 0)) [] 0))
      ∧ (level = false → q = { s.plane with pins := q.pins }))
  ∧ (∀ line edges s, coreRuns s.plane = true → evtNum line ∉ s.plane.pins.ignored →
    ∃ q, Settles (.hostEvent line edges) s q ∧ spGetD q.pins.edges (evtNum line) 0 = 0
      ∧ OneRecord s.plane q .hostEvent srcCore none
          (dPort (evtNum line) (min 255 (spGetD s.plane.pins.edges (evtNum line) 0 + edges.toNat)) [] 0))
  ∧ (∀ line edges s, evtNum line ∈ s.plane.pins.ignored → Settles (.hostEvent line edges) s s.plane)
  ∧ (∀ line s, coreRuns s.plane = true → stuckNum line ∉ s.plane.pins.ignored →
    ∃ q, Settles (.stuckInput line) s q ∧ stuckNum line ∈ q.pins.ignored
      ∧ OneRecord s.plane q .stuckInput srcCore none (dPort (stuckNum line) 0 [] 0))
  ∧ (∀ line s, ∃ q, Settles (.stuckInputReleased line) s q ∧ stuckNum line ∉ q.pins.ignored
      ∧ (∀ l, l ≠ stuckNum line → (l ∈ q.pins.ignored ↔ l ∈ s.plane.pins.ignored)) ∧ q = { s.plane with pins := q.pins })
  ∧ (∀ s, coreRuns s.plane = true →
    ∃ q, Settles .strapChange s q ∧ q = { s.plane with bb := q.bb }
      ∧ OneRecord s.plane q .strapChange srcCore none (dPort 0 0 [] 0))

/-- Supply voltage and pacing (R314 to R319). The slack code of a region is the lowest of its sensors'; a code below
16 caps the region, is recorded, and asks for 8 codes more. VREQ waits for VACK, then takes the latest wanted code;
a timeout is recorded once. The update follows the first rule of R319 that applies; while a higher voltage is
awaited no region's pacing rises. A refill adds (L + 1) × 16 tokens up to 8,192. The power estimate, whose formula
the spec leaves to firmware (log 148), moves every region's duty level by one. -/
def Obligations.PowerAndPacing : Prop :=
  (∀ s w, s.plane.pins.changing = true → s.plane.pins.wanted = w →
    ∃ q, Settles (.vack true) s q ∧ q = { s.plane with pins := q.pins, regions := q.regions } ∧ q.pins.wanted = none
      ∧ q.pins.vack = true
      ∧ (w = none ∨ w = some s.plane.pins.vreq → q.pins.vreq = s.plane.pins.vreq ∧ q.pins.changing = false
          ∧ q.regions = s.plane.regions ∧ riseWaits q = false)
      ∧ (∀ c, w = some c → c ≠ s.plane.pins.vreq → q.pins.vreq = c ∧ q.pins.changing = true
          ∧ ∀ r, r < 8 → { getRg q r with hold := (getRg s.plane r).hold } = getRg s.plane r))
  ∧ (∀ level s, level = false ∨ s.plane.pins.changing = false →
    Settles (.vack level) s { s.plane with pins := { s.plane.pins with vack := level } })
  ∧ (∀ s, s.plane.pins.changing = true → s.plane.pins.timedOut = false → coreRuns s.plane = true →
    ∃ q, Settles .vreqTimeout s q ∧ q.pins = { s.plane.pins with timedOut := true }
      ∧ OneRecord s.plane q .vreqTimeout srcCore none (dPort 0 0 [] 0))
  ∧ (∀ s, s.plane.pins.timedOut = true → Settles .vreqTimeout s s.plane)
  ∧ (∀ s, s.plane.regs.state = .ready → s.plane.pins.changing = false →
    ((getRg s.plane (worstRegion s.plane)).slack < 48 → s.plane.pins.vreq < 208 →
      ∃ q, Settles .vreqUpdate s q ∧ q = { s.plane with pins := q.pins, regions := q.regions }
        ∧ q.pins.vreq = min 208 (s.plane.pins.vreq + 8) ∧ q.pins.changing = true
        ∧ ∀ r, r < 8 → getRg q r = { getRg s.plane r with hold := regionLevel s.plane r })
    ∧ (48 ≤ (getRg s.plane (worstRegion s.plane)).slack → s.plane.duties.getLsbD 7 = false → 8 ≤ s.plane.pins.vreq →
        aboveCap s.plane s.plane.pins.watts = true →
      ∃ q, Settles .vreqUpdate s q ∧ q = { s.plane with pins := q.pins, regions := q.regions }
        ∧ q.pins.vreq = s.plane.pins.vreq - 8 ∧ q.pins.changing = true ∧ ∀ r, r < 8 → regionLevel q r = regionLevel s.plane r)
    ∧ (48 ≤ (getRg s.plane (worstRegion s.plane)).slack → (getRg s.plane (worstRegion s.plane)).slack < 96 →
        aboveCap s.plane s.plane.pins.watts = false → Settles .vreqUpdate s s.plane))
  ∧ (∀ r sensors temp s, coreRuns s.plane = true → sensors ≠ [] →
    ∃ q c, Settles (.marginSample r sensors temp) s q ∧ (getRg q r.val).slack = c ∧ (getRg q r.val).temp = temp
      ∧ (∀ x ∈ sensors, c ≤ min 255 (256 * (x.1 - x.2) / x.1)) ∧ (∃ x ∈ sensors, c = min 255 (256 * (x.1 - x.2) / x.1))
      ∧ (∀ k, k ≠ r.val → { getRg q k with hold := (getRg s.plane k).hold } = getRg s.plane k)
      ∧ (16 ≤ c → q = { s.plane with regions := q.regions } ∧ ∀ k, k ≠ r.val → getRg q k = getRg s.plane k)
      ∧ (c < 16 → (getRg q r.val).capped = true
          ∧ OneRecord s.plane q .marginLow (0x40 + r.val) (partOfRegion s.plane r.val)
              (dHw { s.plane with regions := q.regions } r.val 0xFF 0 0)
          ∧ (s.plane.pins.changing = false → q.pins.vreq = min 208 (s.plane.pins.vreq + 8))
          ∧ (s.plane.pins.changing = true → q.pins.wanted = some (min 208 (s.plane.pins.vreq + 8)))))
  ∧ (∀ r s, s.plane.regs.held = .no →
    ∃ q, Settles (.tokenRefill r) s q ∧ (getRg q r.val).roc = (getRg s.plane r.val).roc + 1
      ∧ (getRg q r.val).tokens = min 8192 ((getRg s.plane r.val).tokens + (regionLevel s.plane r.val + 1) * 16)
      ∧ (∀ k, k ≠ r.val → getRg q k = getRg s.plane k)
      ∧ q.pins.refRoc = s.plane.pins.refRoc + (if s.plane.pins.reference = r.val then 1 else 0)
      ∧ q = { s.plane with regions := q.regions, pins := q.pins, ledger := q.ledger })
  ∧ (∀ s w, s.plane.regs.state = .ready → s.plane.duties.getLsbD 7 = false → w = estimate s.plane →
    ∃ q, Settles .powerEstimate s q ∧ q.pins = { s.plane.pins with watts := w }
      ∧ q = { s.plane with pins := q.pins, regions := q.regions }
      ∧ ∀ r, r < 8 → (getRg q r).activity = 0 ∧ (getRg q r).level
          = if aboveCap s.plane w then (getRg s.plane r).level - 1
            else if belowCap s.plane 9 10 w then min 15 ((getRg s.plane r).level + 1)
            else (getRg s.plane r).level)

namespace Sys2Proof.Claims

/-- A counter adds 1 and saturates (R333). -/
def plusOne (p q : Plane) (i : Nat) : Prop := cntAt q.ledger.cnt i = min (cntAt p.ledger.cnt i + 1) (2 ^ 64 - 1)

end Sys2Proof.Claims

/-- Hardware checks (R165, R260, R262, R263, R322, R333). A region whose oscillator advanced less than half or more than twice the median is
quarantined, as is a region with a second parity error in one epoch; the first is recorded only. A sequencer fault fences its
engine. A lockstep error, or one in control-core state that is not corrected, stops every partition: the Plane is HALTED. A
corrected error of the register files is counted and the instruction has its effect; an error of the operand buffer that is not
corrected takes the effect away, stops the task at the instruction and rolls the partition back. The median of an even number of counts is the model's
choice (log 27). -/
def Obligations.HardwareChecks : Prop :=
  (∀ s, s.plane.regs.state = .ready →
    (∀ r ∈ regionsIn s.plane, 4 * rocAdvance s.plane r ≥ median2 ((regionsIn s.plane).map (rocAdvance s.plane))
        ∧ rocAdvance s.plane r ≤ median2 ((regionsIn s.plane).map (rocAdvance s.plane))) →
    ∃ q, Settles .oscillatorCheck s q ∧ q = { s.plane with regions := q.regions }
      ∧ ∀ r, r < 8 → getRg q r = { getRg s.plane r with rocCheck := (getRg s.plane r).roc })
  ∧ (∀ s r, s.plane.regs.state = .ready → r ∈ regionsIn s.plane →
    (4 * rocAdvance s.plane r < median2 ((regionsIn s.plane).map (rocAdvance s.plane))
      ∨ median2 ((regionsIn s.plane).map (rocAdvance s.plane)) < rocAdvance s.plane r) →
    ∃ q, Settles .oscillatorCheck s q ∧ (getRg q r).quarantined = true)
  ∧ (∀ r s, s.plane.regs.state = .ready → (getRg s.plane r.val).quarantined = false →
    ((getRg s.plane r.val).parity = 0 →
      ∃ q, Settles (.rgnParity r) s q ∧ getRg q r.val = { getRg s.plane r.val with parity := 1 }
        ∧ (∀ k, k ≠ r.val → getRg q k = getRg s.plane k)
        ∧ OneRecord s.plane q .rgnParity (0x40 + r.val) (partOfRegion s.plane r.val) (dHw s.plane r.val 0xFF 0 0)
        ∧ q = { s.plane with regions := q.regions, bb := q.bb, ledger := q.ledger })
    ∧ (1 ≤ (getRg s.plane r.val).parity →
      ∃ q, Settles (.rgnParity r) s q ∧ (getRg q r.val).quarantined = true))
  ∧ (∀ ue s, s.plane.regs.state = .ready →
    ∃ q, Settles (.lockstep ue) s q ∧ q.regs = { s.plane.regs with state := .halted }
      ∧ (∀ i v k, i < 8 → partOf s.plane v = some i → v < 64 → (getT s.plane v k).st ≠ .free →
          getT q v k = { getT s.plane v k with st := .stopped })
      ∧ (ue = false → OneRecord s.plane q .lockstep srcCore none (dHw s.plane s.plane.pins.reference 0xFF 0 0))
      ∧ (ue = true → OneRecord s.plane q .plUe srcCore none (dHw s.plane 0xFF 0xFF 7 0)))
  ∧ (∀ c i f op s pi, aluOp c = some (i, f, op) → canIssue c i planNone pi s.plane = true → i.errs = [.regCE] →
    ∃ t, exec c s = .next t ∧ plusOne s.plane t.plane (224 + 16 * homePort s.plane i.veng.val + 15)
      ∧ (∀ k, regAt t.plane i k = if k = 0#5 then 0
          else if k = f.sd then (op (opA s.plane i f.sa) (opB s.plane i f.sb f.i f.imm)).toNat else regAt s.plane i k)
      ∧ flowAt t.plane i = nextFlow s.plane i ∧ SeqFrame s.plane { t.plane with ledger := s.plane.ledger })
  ∧ (∀ i f s pi h u e, canIssue (.store i f) i (copyPlan .read f) pi s.plane = true → i.errs = [.bufUE h u] →
    e = envOf s.plane i pi → (i.veng.val, 48 * h.toNat + u.toNat / 512) ∈ rdRegions (copyPlan .read f s.plane e) →
    (getPhys s.plane e.src).ueBanks.contains (192 + h.toNat) = false → partOfRegion s.plane (e.src / 8) = some pi →
    (getP s.plane pi).defined = true → (getP s.plane pi).rollback = none → reqsOf s.plane pi = true →
    ∃ t rb, exec (.store i f) s = .next t ∧ (taskAt t.plane i).st = .stopped
      ∧ (taskAt t.plane i).regs = (taskAt s.plane i).regs
      ∧ (getP t.plane pi).rollback = some rb ∧ rb.cause = 3 ∧ rb.restored = false
      ∧ plusOne s.plane t.plane (96 + e.src) ∧ (∀ a, hostByte t.plane a = hostByte s.plane a)
      ∧ OneRecord s.plane t.plane .bufUe e.src (some pi)
          (dArray i.veng.val i.slot.val 0 u.toNat 0 (taskAt s.plane i).regs.pc (zeros 16)))
  ∧ (∀ e s, s.plane.regs.state = .ready → isFenced s.plane e.val = false → (getPhys s.plane e.val).power ≠ .gated →
    ∃ q, Settles (.seqFault e) s q ∧ (getPhys q e.val).fieldFence = true ∧ isFenced q e.val = true)

/-! ## Engine power, records, the ledger, NVM -/

namespace Sys2Proof.Claims

/-- A row changes the power state of one engine and nothing else. -/
def SetsPower (c : Instr) (s : State) (e : Nat) (x : Phys) : Prop :=
  ∃ q, Settles c s q ∧ getPhys q e = x ∧ (∀ k, k ≠ e → getPhys q k = getPhys s.plane k) ∧ q = { s.plane with phys := q.phys }

/-- The bins that one ledger sample adds to, as 64 × histogram + bin (R334). -/
def sampleBins (p : Plane) : List Nat :=
  (p.pins.vreq / 4) :: (64 * 25 + min 63 (p.pins.watts / 20)) :: (List.range 8).flatMap (fun r =>
    [64 * (1 + r) + min 63 (((getRg p r).temp + 10) / 2).toNat, 64 * (9 + r) + (getRg p r).slackLedger / 4,
      64 * (17 + r) + regionLevel p r])

end Sys2Proof.Claims

/-- Engine power states (R359 to R362): an idle engine drains; the drained one gates, or stays ACTIVE when an enable is
latched; a latched enable wakes a GATED engine, a fenced one for its scan only; the wake ends in ACTIVE with every task slot
FREE but those of a task that a rollback has put back. -/
def Obligations.EnginePower : Prop :=
  (∀ e s, (getPhys s.plane e.val).power = .active → engineIdle s.plane e.val = true →
    SetsPower (.engineIdleTimeout e) s e.val { getPhys s.plane e.val with power := .draining, latched := false })
  ∧ (∀ e s, (getPhys s.plane e.val).power = .active → engineIdle s.plane e.val = false →
    Settles (.engineIdleTimeout e) s s.plane)
  ∧ (∀ e s, (getPhys s.plane e.val).power = .draining → portDrained s.plane e.val = true →
    SetsPower (.drainComplete e) s e.val
      { getPhys s.plane e.val with
        power := if (getPhys s.plane e.val).latched = true ∧ mayWake s.plane e.val = true then .active else .gated
        latched := false })
  ∧ (∀ e s, (getPhys s.plane e.val).power = .gated → mayWake s.plane e.val = false →
    Settles (.engineWake e) s s.plane)
  ∧ (∀ e s, (getPhys s.plane e.val).power = .gated → (getPhys s.plane e.val).latched = true →
    mayWake s.plane e.val = true →
    SetsPower (.engineWake e) s e.val { getPhys s.plane e.val with power := .waking, latched := false })
  ∧ (∀ e s, (getPhys s.plane e.val).power = .waking →
    ∃ q, Settles (.wakeComplete e) s q ∧ getPhys q e.val = { getPhys s.plane e.val with power := .active }
      ∧ (∀ k, k ≠ e.val → getPhys q k = getPhys s.plane k) ∧ q = { s.plane with phys := q.phys, vengs := q.vengs }
      ∧ (∀ v, (getV q v).data = (getV s.plane v).data)
      ∧ ∀ v k, v < 64 → getT q v k =
          if homePort s.plane v = e.val ∧ (getT s.plane v k).st ≠ .active then
            { Task.init with checks := (getT s.plane v k).checks }
          else getT s.plane v k)

/-- Records, the ledger and NVM (R305, R326 to R328, R334, R335, R339, R351, R355). A programmed record lies in its
ring slot, and in the first-fault area when its LEVEL is at most 3, and what it acknowledges is acknowledged. A
retired unit takes the next spare, or is recorded when none is left. A sample adds 1 to one bin of each histogram. A
flush freezes the counters with FLUSH_SEQ one higher; its copy is in NVM once the write is complete, and a fence
mask likewise, with the FENCE record; a write to a unit without a spare is never acknowledged. The instrument writes
and reads in TEST only. The size of an erase unit and the number of spares are the device's (log 113). -/
def Obligations.RecordsReachNvm : Prop :=
  (∀ s r acks, s.plane.regs.state = .ready ∨ s.plane.regs.state = .halted → s.plane.bb.queue = [(r, acks)] →
    s.plane.bb.coal = [] → s.plane.bb.lost = 0 → s.plane.nvm.dead = [] →
    ∃ q x, Settles .recordProgrammed s q ∧ q.bb.queue = [] ∧ spGet q.bb.ring (r.seq % 2 ^ 22) = some x
      ∧ x = { r with pinned := x.pinned } ∧ (x.pinned = true ↔ r.level ≤ 3 ∧ s.plane.bb.pin < 65536)
      ∧ (x.pinned = true → spGet q.bb.first s.plane.bb.pin = some x ∧ q.bb.pin = s.plane.bb.pin + 1)
      ∧ (x.pinned = false → q.bb.first = s.plane.bb.first ∧ q.bb.pin = s.plane.bb.pin)
      ∧ (∀ i b, acks = [.pn i b] → b < 7 → (getP q i).pncause.getLsbD b = true)
      ∧ (∀ b, acks = [.pl b] → b < 5 → q.regs.ncause.getLsbD b = true)
      ∧ plusOne s.plane q 17)
  ∧ (∀ u s b, badNow s.plane = b → b.pairs.length < min 4096 Config.spareUnits →
    ∃ q, Settles (.nvmUnitRetired u) s q ∧ q = { s.plane with nvm := q.nvm, ledger := q.ledger }
      ∧ q.nvm = { s.plane.nvm with bad := q.nvm.bad }
      ∧ badNow q = ⟨b.gen + 1, b.pairs ++ [(u.toNat, 0x56500000 + b.pairs.length * Config.eraseUnit)]⟩
      ∧ (∀ c ∈ s.plane.nvm.bad, c.gen = b.gen → c ∈ q.nvm.bad))
  ∧ (∀ u s, min 4096 Config.spareUnits ≤ (badNow s.plane).pairs.length →
    ∃ q, Settles (.nvmUnitRetired u) s q ∧ u.toNat / Config.eraseUnit ∈ q.nvm.dead
      ∧ OneRecord s.plane q .nvmUnitRetired srcCore none (dPort 0 0 [] u.toNat))
  ∧ (∀ s, s.plane.regs.state = .ready ∨ s.plane.regs.state = .halted → s.plane.pins.vreq < 256 →
    (∀ r, r < 8 → (getRg s.plane r).slackLedger < 256) →
    ∃ q, Settles .ledgerSample s q
      ∧ (∀ k, spGetD q.ledger.hist k 0 = if k ∈ sampleBins s.plane then min (spGetD s.plane.ledger.hist k 0 + 1) (2 ^ 32 - 1)
          else spGetD s.plane.ledger.hist k 0)
      ∧ q.ledger.cnt = s.plane.ledger.cnt
      ∧ (∀ r, r < 8 → getRg q r = { getRg s.plane r with slackLedger := (getRg s.plane r).slack })
      ∧ q = { s.plane with ledger := q.ledger, regions := q.regions })
  ∧ (∀ reason s, s.plane.regs.state = .ready → (reason = .period → s.plane.duties.getLsbD 9 = false) →
    s.plane.nvm.writes.any isLedgerWrite = false →
    ∃ q f, Settles (.ledgerFlush reason) s q
      ∧ q.nvm.writes = s.plane.nvm.writes ++ [.ledger (cntAt f.cnt 1 % 2048) f []] ∧ f.hist = s.plane.ledger.hist
      ∧ cntAt f.cnt 1 = cntAt s.plane.ledger.cnt 1 + 1 ∧ cntAt f.cnt 2 = reasonCode reason
      ∧ cntAt f.cnt 3 = s.plane.bb.nextSeq ∧ cntAt f.cnt 4 = s.plane.bb.pin ∧ cntAt f.cnt 5 = s.plane.pins.refRoc
      ∧ cntAt f.cnt 6 = s.plane.fuses.serial.toNat % 2 ^ 64
      ∧ (∀ k, k = 0 ∨ 7 ≤ k → cntAt f.cnt k = cntAt s.plane.ledger.cnt k)
      ∧ cntAt q.ledger.cnt 1 = cntAt f.cnt 1)
  ∧ (∀ s c e v0 t, s.plane.nvm.started = true → s.plane.nvm.dead = [] → s.plane.nvm.writes = .cfg c e true none v0 :: t →
    ∃ q, Settles .nvmProgramComplete s q ∧ c ∈ q.nvm.cfg ∧ q.nvm.writes = t
      ∧ OneRecord s.plane q .fence srcCore (partOfRegion s.plane (e / 8)) (dHw s.plane (e / 8) e 0 0))
  ∧ (∀ s k f t, s.plane.nvm.started = true → s.plane.nvm.dead = [] → s.plane.nvm.writes = .ledger k f [] :: t →
    ∃ q, Settles .nvmProgramComplete s q ∧ spGet q.nvm.ledger k = some f ∧ latestFlush q = some f ∧ q.nvm.writes = t
      ∧ plusOne s.plane q 16)
  ∧ (∀ s w t, s.plane.nvm.started = true → s.plane.nvm.writes = w :: t →
    unitDead s.plane (writeSpan w).1 (writeSpan w).2 = true →
    Settles .nvmProgramComplete s { s.plane with nvm := { s.plane.nvm with writes := t, started := false } })
  ∧ (∀ off data s, s.plane.regs.state = .test → (Instr.nvmInstrumentAccess true off data).wf = true →
    ∃ q, Settles (.nvmInstrumentAccess true off data) s q ∧ memRead 0xFF q.nvm.fw off.toNat data.length = data
      ∧ (∀ b, b < off.toNat ∨ off.toNat + data.length ≤ b → memGet 0xFF q.nvm.fw b = memGet 0xFF s.plane.nvm.fw b)
      ∧ q = { s.plane with nvm := { s.plane.nvm with fw := q.nvm.fw } })
  ∧ (∀ off data s, s.plane.regs.state = .test → (Instr.nvmInstrumentAccess false off data).wf = true →
    Settles (.nvmInstrumentAccess false off data) s { s.plane with
      pins := { s.plane.pins with tdo := memRead 0xFF s.plane.nvm.fw off.toNat data.length } })
  ∧ (∀ w off data s, s.plane.regs.state ≠ .test → Settles (.nvmInstrumentAccess w off data) s s.plane)

/-! ## Resets and start-up -/

namespace Sys2Proof.Claims

/-- The register page of a Plane held in reset (R268). -/
def heldRegs (h : Held) : Regs := { Regs.init with held := h }

/-- What every reset loses: sessions, mailboxes, programs, tasks, engines' data, streams, queues, partitions, and every record
not yet in NVM (R358). -/
structure Lost (q : Plane) : Prop where
  mailboxes : q.mbx = [] ∧ q.mbxMem = [] ∧ q.sessions = [] ∧ q.txns = []
  engines : q.vengs = [] ∧ q.flights = [] ∧ q.streams = [] ∧ q.queues = [] ∧ q.cross = [] ∧ q.rowDir = []
  parts : q.parts = [(0, Part.zero)]
  hub : q.colls = [] ∧ q.sent = [] ∧ q.heldRuns = [] ∧ q.heldPkts = [] ∧ q.gslots = [] ∧ q.peers = []
  writer : q.bb.queue = [] ∧ q.bb.coal = [] ∧ q.bb.lost = 0
  duties : q.duties = dutiesInit

/-- What every reset keeps: NVM, fuses, host memory (R3, R358). A record that is being programmed at that moment may cost the
older records of the erase unit that it enters (R328). -/
structure Kept (p q : Plane) : Prop where
  nvm : q.nvm = { p.nvm with
    writes := []
    started := false
    octal := q.nvm.octal }
  idle : p.bb.queue = [] → q.bb.ring = p.bb.ring ∧ q.bb.first = p.bb.first ∧ q.bb.torn = p.bb.torn
  ring : ∀ x t y, p.bb.queue = x :: t → y ∈ p.bb.ring → x.1.seq ≤ y.2.seq + 2 ^ 21 → y ∈ q.bb.ring
  old : ∀ y ∈ q.bb.ring, y ∈ p.bb.ring
  first : ∀ k, k ≠ p.bb.pin → spGet q.bb.first k = spGet p.bb.first k
  fuses : q.fuses = p.fuses
  mem : q.mem = p.mem

/-- The start-up checks of steps 2, 5 and 6 pass with image `b`. -/
def Boots (p : Plane) (e : StartEnv) (b : Bool) : Prop :=
  e.selfCheckOk = true ∧ (pickImage p e).run = some b ∧ factoryOk p = true ∧ e.bist = []

/-- The Plane has started with image `b`: READY, no record waits, and the BOOT record is in the ring. -/
def Started (p q : Plane) (b : Bool) : Prop :=
  q.regs.state = .ready ∧ q.regs.held = .no ∧ q.regs.fwslot = (if b then 1 else 0)
    ∧ q.regs.release = BitVec.ofNat 32 (memNat 0xFF p.nvm.fw ((if b then 0x01000000 else 0) + 8) 4)
    ∧ q.bb.queue = []
    ∧ (p.nvm.dead = [] → ∃ x ∈ q.bb.ring, x.2.code = 0x0801 ∧ x.2.level = 6 ∧ x.2.source = srcCore)
    ∧ ∀ n, n < 64 → (getPhys q n).power = if isFenced q n then .gated else .active

end Sys2Proof.Claims

/-- Resets and starts (R309, R310, R348 to R351, R354, R357, R358). Power loss and a cold or warm reset lose what R358 says and keep the
rest; a reset during another, and a warm reset during a cold one, do nothing. A start whose checks pass ends in READY with the
BOOT record in NVM and every engine in service ACTIVE, each virtual engine on its own engine where that is in service; one whose
checks fail ends in FATAL; with TEST_MODE high it ends in TEST. That the whole sequence is one command is the model's choice
(log 2). -/
def Obligations.ResetsAndStarts : Prop :=
  (∀ s, ∃ q, exec .powerLoss s = .next { s with plane := q } ∧ q.regs = heldRegs .power ∧ Lost q ∧ Kept s.plane q
      ∧ q.regions = [] ∧ q.ledger = Ledger.init ∧ q.pins.vreq = 104)
  ∧ (∀ s, s.plane.regs.held ≠ .power → s.plane.regs.held ≠ .cold →
    ∃ q, exec .coldReset s = .next { s with plane := q } ∧ q.regs = heldRegs .cold ∧ Lost q ∧ Kept s.plane q
      ∧ (∀ r, (getRg q r).quarantined = false ∧ (getRg q r).roc = (getRg s.plane r).roc) ∧ q.ledger = Ledger.init
      ∧ q.pins.vreq = s.plane.pins.vreq)
  ∧ (∀ s, s.plane.regs.held = .power ∨ s.plane.regs.held = .cold → exec .coldReset s = .next s)
  ∧ (∀ s, s.plane.regs.held = .no →
    ∃ q, exec .warmReset s = .next { s with plane := q } ∧ q.regs = heldRegs .warm ∧ Lost q ∧ Kept s.plane q
      ∧ (∀ r, (getRg q r).quarantined = (getRg s.plane r).quarantined ∧ (getRg q r).roc = (getRg s.plane r).roc)
      ∧ q.ledger = s.plane.ledger ∧ q.pins.reference = s.plane.pins.reference)
  ∧ (∀ s, s.plane.regs.held ≠ .no → exec .warmReset s = .next s)
  ∧ (∀ e s, (s.plane.regs.held = .power ∧ e.fromPower = true) ∨ (s.plane.regs.held = .cold ∧ e.fromPower = false) →
    (e.testMode = true → ∃ q, Settles (.coldStart e) s q ∧ q.regs = { s.plane.regs with state := .test, held := .no })
    ∧ (∀ b, e.testMode = false → Boots s.plane e b → (getRg s.plane 0).quarantined = false → Lost s.plane →
      ∃ q, Settles (.coldStart e) s q ∧ Started s.plane q b
        ∧ ∀ v, v < 64 → isFenced q v = false → (getV q v).host = v)
    ∧ (e.testMode = false → e.selfCheckOk = true → (pickImage s.plane e).run = none →
      ∃ q, Settles (.coldStart e) s q ∧ q.regs.state = .fatal ∧ q.regs.held = .no)
    ∧ (e.testMode = false → e.selfCheckOk = false ∨ ((pickImage s.plane e).run.isSome = true ∧ factoryOk s.plane = false) →
      ∃ q, Settles (.coldStart e) s q ∧ q.regs.state = .fatal ∧ q.bb = s.plane.bb)
    ∧ (∀ b, e.testMode = false → e.selfCheckOk = true → (pickImage s.plane e).run = some b → factoryOk s.plane = true →
        BistFail.plane ∈ e.bist →
      ∃ q, Settles (.coldStart e) s q ∧ q.regs.state = .fatal ∧ q.regs.fwslot = (if b then 1 else 0)
        ∧ q.regs.release = BitVec.ofNat 32 (memNat 0xFF s.plane.nvm.fw ((if b then 0x01000000 else 0) + 8) 4)))
  ∧ (∀ e s b, s.plane.regs.held = .warm → Boots s.plane e b → (referenceOf s.plane).isSome = true → Lost s.plane →
    ∃ q, Settles (.warmStart e) s q ∧ Started s.plane q b
      ∧ (e.ledgerSramClean = true → q.ledger.hist = s.plane.ledger.hist)
      ∧ ∀ r, (getRg q r).quarantined = (getRg s.plane r).quarantined)
  ∧ (∀ e s, s.plane.regs.held ≠ .warm → Settles (.warmStart e) s s.plane)

/-! ## The whole machine -/

/-- A step takes the command at the front of the queue and runs it with the rest; an empty queue idles (the model's choice,
log 1). Every command is answered with a next state, and none changes the queue. -/
def Obligations.StepRunsFrontCommand : Prop :=
  (∀ c rest (s : State), step { s with pending := c :: rest } = exec c { s with pending := rest })
  ∧ (∀ s, s.pending = [] → step s = .next s)
  ∧ ∀ c s, ∃ t, exec c s = .next t ∧ t.pending = s.pending

/-- The order in which contributions reach a tile does not matter (R1, R19, R29): adding the same cells in any order gives
every entry the same X and SP and every group the same counts. -/
def Obligations.AccumulationOrderFree : Prop :=
  ∀ x l m, List.Perm l m →
    (∀ row col, getAcc (l.foldl addCell x) row col = getAcc (m.foldl addCell x) row col)
    ∧ (∀ g, getG (l.foldl addCell x) g = getG (m.foldl addCell x) g)

namespace Sys2Proof.Claims

/-- The engine whose sequencer a row's instruction belongs to; rows of chapter 08 that are no collective. -/
def issueOf : Instr → Option Issue
  | .mma i _ => some i
  | .ldw i _ => some i
  | .conv i _ => some i
  | .ewiseMov i _ => some i
  | .ewiseAdd i _ => some i
  | .ewiseSub i _ => some i
  | .ewiseMul i _ => some i
  | .redSum i _ => some i
  | .redMax i _ => some i
  | .redMin i _ => some i
  | .updDiagonal i _ => some i
  | .updBlockMatrix i _ _ => some i
  | .load i _ => some i
  | .store i _ => some i
  | .xload i _ => some i
  | .xstore i _ => some i
  | .xsend i _ => some i
  | .square i _ => some i
  | .streamStart i _ => some i
  | .rowInstall i _ => some i
  | .rowEvict i _ => some i
  | .xtload i _ => some i
  | .xtstore i _ => some i
  | .ringSeq i _ _ => some i
  | .ringTurn i _ _ => some i
  | .ringSend i _ => some i
  | .ringRecv i _ => some i
  | .ringMcast i _ => some i
  | .hqPut i _ => some i
  | .hqGet i _ => some i
  | .crossArrive i _ _ => some i
  | .crossWait i _ => some i
  | .swap i => some i
  | .wait i _ => some i
  | .ctxSnapshot i _ => some i
  | .ctxReset i _ => some i
  | .sealClose i _ => some i
  | .sealAwait i => some i
  | .br i _ => some i
  | .loop i _ => some i
  | .aluAdd i _ => some i
  | .aluSub i _ => some i
  | .aluMul i _ => some i
  | .aluAnd i _ => some i
  | .aluOr i _ => some i
  | .aluXor i _ => some i
  | .aluShl i _ => some i
  | .aluShr i _ => some i
  | .aluSar i _ => some i
  | .aluMin i _ => some i
  | .aluMax i _ => some i
  | .aluMinu i _ => some i
  | .aluMaxu i _ => some i
  | .aluInshi i _ => some i
  | .aluRdspec i _ => some i
  | .aluHnd i _ => some i
  | .setp i _ => some i
  | .yield i => some i
  | .halt i => some i
  | _ => none

end Sys2Proof.Claims

/-- The exact formats lose nothing (R49 to R54): an XAF-136 element reads back as its X, SP and F, whatever its reserved bytes
follow with; the groups of an XAF-T transfer decode to the elements they were made of. The 128-bit word of every engine
instruction, with every operand at every value, decodes to it (R166 to R184). -/
def Obligations.ExactFormatsRoundTrip : Prop :=
  (∀ a f rest, -(2 : Int) ^ 135 ≤ a.x → a.x < (2 : Int) ^ 135 → -512 ≤ f → f ≤ 511 →
    xaf136Read (xaf136Bytes a f ++ rest) = (a, f))
  ∧ (∀ (as : List Acc) (f : Int), (∀ a ∈ as, -(2 : Int) ^ 135 ≤ a.x ∧ a.x < (2 : Int) ^ 135) →
    xaftDecodeAll f as.length as.length (xaftGroups f as) = some as)
  ∧ (∀ c i w coll, encodeInsn c = some w → issueOf c = some i →
    decodeInsn coll i w.toNat = some (spelled c) ∧ sameGuard i w.toNat = true)
  ∧ (∀ c op i f w coll, encodeInsn c = some w → collRowOf c = some (op, i, f) → coll f = op →
    decodeInsn coll i w.toNat = some c ∧ sameGuard i w.toNat = true)

namespace Sys2Proof.Claims

/-- Byte memories are in their one form, and VREQ and the code wanted next lie in 0 to 208 (R317). -/
def Sound (p : Plane) : Prop :=
  memsWf p ∧ p.pins.vreq ≤ 208 ∧ ∀ c, p.pins.wanted = some c → c ≤ 208

/-- A reserved value in an operation-select field (R166). -/
def reserved : Instr → Bool
  | .conv _ f => ocuIll f.act f.bmode
  | .ewiseMov _ f => ocuIll f.act f.bmode
  | .ewiseAdd _ f => ocuIll f.act f.bmode || f.bbc == 3
  | .ewiseSub _ f => ocuIll f.act f.bmode || f.bbc == 3
  | .ewiseMul _ f => ocuIll f.act f.bmode || f.bbc == 3
  | .redSum _ f => f.form != 0
  | .updDiagonal _ f => f.uexp == 3
  | .updBlockMatrix _ f k => f.uexp == 3 || k == .reserved
  | .setp _ f => decide (6 ≤ f.cmp.toNat) || f.comb == 3
  | _ => false

/-- A stopping fault (R193): no effect, the task STOPPED with its PC at the instruction, one record with the code, the virtual
engine, the slot, the PC and the instruction's bits. -/
def StopsTask (p q : Plane) (i : Issue) (pi : Nat) (c : Code) (w : BitVec 128) : Prop :=
  taskAt q i = { taskAt p i with st := .stopped } ∧ OtherTasks p q i ∧ SeqFrame p { q with bb := p.bb }
    ∧ OneRecord p q c (homePort p i.veng.val) (some pi)
        (dInstr i.veng.val i.slot.val (taskAt p i).regs.pc w [])

end Sys2Proof.Claims

/-- From every state, a step keeps the byte memories in their one form and VREQ within 0 to 208 (R317). -/
def Obligations.StepsStaySound : Prop :=
  ∀ s t, step s = .next t → Sound s.plane → Sound t.plane

/-- Right after reset (R268, R270, R273, R279, R294): the registers read their Reset values once the reset is released, the Plane is
held, only partition 0 is defined and it holds every region, and no mailbox is open; held in a cold reset a read returns 0 with
the error bit, and a read of the window narrower than its word returns 0. The invariant of `StepsStaySound` holds. -/
def Obligations.ResetState : Prop :=
  Sound State.reset.plane ∧ State.reset.pending = [] ∧ heldCold State.reset.plane = true ∧ State.reset.plane.regs.state = .reset
  ∧ (∀ a be, ctlpRead State.reset.plane a be = ⟨0, true⟩)
  ∧ (∀ p rd, p = release State.reset.plane → rd = (fun a => ctlpRead p a 0xFF) →
      rd 0x008 = ⟨0x10000, false⟩ ∧ rd 0x000 = ⟨0x00640302, false⟩ ∧ rd 0x020 = ⟨0, false⟩ ∧ rd 0x028 = ⟨0, false⟩
      ∧ rd 0x030 = ⟨0, false⟩ ∧ rd 0x038 = ⟨0, false⟩ ∧ rd 0x040 = ⟨10, false⟩ ∧ rd 0x048 = ⟨0, false⟩
      ∧ rd 0x080 = ⟨0, false⟩ ∧ rd 0x088 = ⟨0, false⟩ ∧ rd 0x090 = ⟨0, false⟩
      ∧ (∀ i, i < 8 → rd (0x2000 + 256 * i) = ⟨0, false⟩ ∧ rd (0x2000 + 256 * i + 0x08) = ⟨1, false⟩
          ∧ rd (0x2000 + 256 * i + 0x10) = ⟨0, false⟩ ∧ rd (0x2000 + 256 * i + 0x18) = ⟨0, false⟩
          ∧ rd (0x2000 + 256 * i + 0x20) = ⟨0, false⟩ ∧ rd (0x2000 + 256 * i + 0x28) = ⟨i, false⟩)
      ∧ ∀ a be, a < 0x10000 → be ≠ 0xFF#8 → ctlpRead p a be = ⟨0, false⟩)
  ∧ (∀ i, (getP State.reset.plane i).defined = decide (i = 0))
  ∧ (∀ v, v < 64 → partOf State.reset.plane v = some 0)
  ∧ (∀ m, (getM State.reset.plane m).isOpen = false)
  ∧ (∀ i d, i < 8 → d < 12 → dutyHw State.reset.plane i d = decide (d ≠ 8))

/-- Instructions that do not reach their effect (R167, R192, R193). With GEN 1 an instruction executes only when p[GP] xor GNEG is
1, and never with GP 0 and GNEG 1; with its guard false it only goes on, whatever else would hold or fault it, unless a reserved
value makes it ILLEGAL_OP. An error of the port that fetches it, a word that spells no instruction, a reserved value, and a PC
past the image each stop the task. -/
def Obligations.GuardAndFaultRules : Prop :=
  (∀ t i, guardOff t i = true ↔ i.gen = true ∧ pGet t i.gp = i.gneg)
  ∧ (∀ t i, i.gen = true → i.gp = 0 → i.gneg = true → guardOff t i = true)
  ∧ ∀ c i s pi, issueOf c = some i → gate s.plane i = .go pi →
    ((taskAt s.plane i).regs.pc < ninsnOf s.plane i.veng.val → spells c i pi s.plane = true → reserved c = false →
        guardOff (taskAt s.plane i).regs i = true → onTurn s.plane i = true →
      ∃ q, (exec c s = .next { s with plane := q } ∨ Settles c s q) ∧ GoesOn s.plane q i ∧ SeqFrame s.plane q)
    ∧ ((taskAt s.plane i).regs.pc < ninsnOf s.plane i.veng.val → spells c i pi s.plane = true → reserved c = true →
      ∃ q, (exec c s = .next { s with plane := q } ∨ Settles c s q)
        ∧ StopsTask s.plane q i pi .illegalOp (insnAt s.plane (envOf s.plane i pi)))
    ∧ (i.fetch = .portError → (taskAt s.plane i).regs.pc < ninsnOf s.plane i.veng.val →
      ∃ q r a, (exec c s = .next { s with plane := q } ∨ Settles c s q) ∧ r = { s.plane with bb := r.bb }
        ∧ a = insnAddr s.plane i.veng.val (taskAt s.plane i).regs.pc
        ∧ OneRecord s.plane r .memError (homePort s.plane i.veng.val) (some pi)
            (dExec i.veng.val i.slot.val 0 0 0 0 ((a - a % 128) % 2 ^ 52 + homePort s.plane i.veng.val * 2 ^ 58))
        ∧ StopsTask r q i pi .fetchError 0)
    ∧ (i.fetch = .ok → (taskAt s.plane i).regs.pc < ninsnOf s.plane i.veng.val →
        fetched s.plane (envOf s.plane i pi) i = none →
      ∃ q, (exec c s = .next { s with plane := q } ∨ Settles c s q)
        ∧ StopsTask s.plane q i pi .illegalOp (insnAt s.plane (envOf s.plane i pi)))
    ∧ (ninsnOf s.plane i.veng.val ≤ (taskAt s.plane i).regs.pc →
      ∃ q, (exec c s = .next { s with plane := q } ∨ Settles c s q) ∧ StopsTask s.plane q i pi .branchRange 0)
end

