-- ==== Sys2Proof/Laws/State.lean ====
section
/-! SUPPORT. What each named update of the Plane leaves alone, field by field, and what it writes. -/

namespace Sys2Proof.Machine

variable (p : Plane)

/-! ### setV -/

@[simp] theorem setV_regs (v : Nat) (e : VEng) : (setV p v e).regs = p.regs := rfl
@[simp] theorem setV_mbx (v : Nat) (e : VEng) : (setV p v e).mbx = p.mbx := rfl
@[simp] theorem setV_mbxMem (v : Nat) (e : VEng) : (setV p v e).mbxMem = p.mbxMem := rfl
@[simp] theorem setV_sessions (v : Nat) (e : VEng) : (setV p v e).sessions = p.sessions := rfl
@[simp] theorem setV_txns (v : Nat) (e : VEng) : (setV p v e).txns = p.txns := rfl
@[simp] theorem setV_order (v : Nat) (e : VEng) : (setV p v e).order = p.order := rfl
@[simp] theorem setV_mbxNext (v : Nat) (e : VEng) : (setV p v e).mbxNext = p.mbxNext := rfl
@[simp] theorem setV_parts (v : Nat) (e : VEng) : (setV p v e).parts = p.parts := rfl
@[simp] theorem setV_duties (v : Nat) (e : VEng) : (setV p v e).duties = p.duties := rfl
@[simp] theorem setV_coef (v : Nat) (e : VEng) : (setV p v e).coef = p.coef := rfl
@[simp] theorem setV_gaz (v : Nat) (e : VEng) : (setV p v e).gaz = p.gaz := rfl
@[simp] theorem setV_hist (v : Nat) (e : VEng) : (setV p v e).hist = p.hist := rfl
@[simp] theorem setV_flights (v : Nat) (e : VEng) : (setV p v e).flights = p.flights := rfl
@[simp] theorem setV_nextId (v : Nat) (e : VEng) : (setV p v e).nextId = p.nextId := rfl
@[simp] theorem setV_streams (v : Nat) (e : VEng) : (setV p v e).streams = p.streams := rfl
@[simp] theorem setV_queues (v : Nat) (e : VEng) : (setV p v e).queues = p.queues := rfl
@[simp] theorem setV_rowDir (v : Nat) (e : VEng) : (setV p v e).rowDir = p.rowDir := rfl
@[simp] theorem setV_rdOwner (v : Nat) (e : VEng) : (setV p v e).rdOwner = p.rdOwner := rfl
@[simp] theorem setV_cross (v : Nat) (e : VEng) : (setV p v e).cross = p.cross := rfl
@[simp] theorem setV_ringSends (v : Nat) (e : VEng) : (setV p v e).ringSends = p.ringSends := rfl
@[simp] theorem setV_ringRecvs (v : Nat) (e : VEng) : (setV p v e).ringRecvs = p.ringRecvs := rfl
@[simp] theorem setV_gslots (v : Nat) (e : VEng) : (setV p v e).gslots = p.gslots := rfl
@[simp] theorem setV_peers (v : Nat) (e : VEng) : (setV p v e).peers = p.peers := rfl
@[simp] theorem setV_colls (v : Nat) (e : VEng) : (setV p v e).colls = p.colls := rfl
@[simp] theorem setV_sent (v : Nat) (e : VEng) : (setV p v e).sent = p.sent := rfl
@[simp] theorem setV_heldRuns (v : Nat) (e : VEng) : (setV p v e).heldRuns = p.heldRuns := rfl
@[simp] theorem setV_heldPkts (v : Nat) (e : VEng) : (setV p v e).heldPkts = p.heldPkts := rfl
@[simp] theorem setV_phys (v : Nat) (e : VEng) : (setV p v e).phys = p.phys := rfl
@[simp] theorem setV_regions (v : Nat) (e : VEng) : (setV p v e).regions = p.regions := rfl
@[simp] theorem setV_pins (v : Nat) (e : VEng) : (setV p v e).pins = p.pins := rfl
@[simp] theorem setV_memp (v : Nat) (e : VEng) : (setV p v e).memp = p.memp := rfl
@[simp] theorem setV_colp (v : Nat) (e : VEng) : (setV p v e).colp = p.colp := rfl
@[simp] theorem setV_bb (v : Nat) (e : VEng) : (setV p v e).bb = p.bb := rfl
@[simp] theorem setV_ledger (v : Nat) (e : VEng) : (setV p v e).ledger = p.ledger := rfl
@[simp] theorem setV_nvm (v : Nat) (e : VEng) : (setV p v e).nvm = p.nvm := rfl
@[simp] theorem setV_fuses (v : Nat) (e : VEng) : (setV p v e).fuses = p.fuses := rfl
@[simp] theorem setV_boot (v : Nat) (e : VEng) : (setV p v e).boot = p.boot := rfl
@[simp] theorem setV_stalls (v : Nat) (e : VEng) : (setV p v e).stalls = p.stalls := rfl
@[simp] theorem setV_mem (v : Nat) (e : VEng) : (setV p v e).mem = p.mem := rfl
@[simp] theorem setV_freeCtr (v : Nat) (e : VEng) : (setV p v e).freeCtr = p.freeCtr := rfl

/-! ### setP -/

@[simp] theorem setP_regs (i : Nat) (x : Part) : (setP p i x).regs = p.regs := rfl
@[simp] theorem setP_mbx (i : Nat) (x : Part) : (setP p i x).mbx = p.mbx := rfl
@[simp] theorem setP_mbxMem (i : Nat) (x : Part) : (setP p i x).mbxMem = p.mbxMem := rfl
@[simp] theorem setP_sessions (i : Nat) (x : Part) : (setP p i x).sessions = p.sessions := rfl
@[simp] theorem setP_txns (i : Nat) (x : Part) : (setP p i x).txns = p.txns := rfl
@[simp] theorem setP_order (i : Nat) (x : Part) : (setP p i x).order = p.order := rfl
@[simp] theorem setP_mbxNext (i : Nat) (x : Part) : (setP p i x).mbxNext = p.mbxNext := rfl
@[simp] theorem setP_duties (i : Nat) (x : Part) : (setP p i x).duties = p.duties := rfl
@[simp] theorem setP_coef (i : Nat) (x : Part) : (setP p i x).coef = p.coef := rfl
@[simp] theorem setP_gaz (i : Nat) (x : Part) : (setP p i x).gaz = p.gaz := rfl
@[simp] theorem setP_hist (i : Nat) (x : Part) : (setP p i x).hist = p.hist := rfl
@[simp] theorem setP_vengs (i : Nat) (x : Part) : (setP p i x).vengs = p.vengs := rfl
@[simp] theorem setP_flights (i : Nat) (x : Part) : (setP p i x).flights = p.flights := rfl
@[simp] theorem setP_nextId (i : Nat) (x : Part) : (setP p i x).nextId = p.nextId := rfl
@[simp] theorem setP_streams (i : Nat) (x : Part) : (setP p i x).streams = p.streams := rfl
@[simp] theorem setP_queues (i : Nat) (x : Part) : (setP p i x).queues = p.queues := rfl
@[simp] theorem setP_rowDir (i : Nat) (x : Part) : (setP p i x).rowDir = p.rowDir := rfl
@[simp] theorem setP_rdOwner (i : Nat) (x : Part) : (setP p i x).rdOwner = p.rdOwner := rfl
@[simp] theorem setP_cross (i : Nat) (x : Part) : (setP p i x).cross = p.cross := rfl
@[simp] theorem setP_ringSends (i : Nat) (x : Part) : (setP p i x).ringSends = p.ringSends := rfl
@[simp] theorem setP_ringRecvs (i : Nat) (x : Part) : (setP p i x).ringRecvs = p.ringRecvs := rfl
@[simp] theorem setP_gslots (i : Nat) (x : Part) : (setP p i x).gslots = p.gslots := rfl
@[simp] theorem setP_peers (i : Nat) (x : Part) : (setP p i x).peers = p.peers := rfl
@[simp] theorem setP_colls (i : Nat) (x : Part) : (setP p i x).colls = p.colls := rfl
@[simp] theorem setP_sent (i : Nat) (x : Part) : (setP p i x).sent = p.sent := rfl
@[simp] theorem setP_heldRuns (i : Nat) (x : Part) : (setP p i x).heldRuns = p.heldRuns := rfl
@[simp] theorem setP_heldPkts (i : Nat) (x : Part) : (setP p i x).heldPkts = p.heldPkts := rfl
@[simp] theorem setP_phys (i : Nat) (x : Part) : (setP p i x).phys = p.phys := rfl
@[simp] theorem setP_regions (i : Nat) (x : Part) : (setP p i x).regions = p.regions := rfl
@[simp] theorem setP_pins (i : Nat) (x : Part) : (setP p i x).pins = p.pins := rfl
@[simp] theorem setP_memp (i : Nat) (x : Part) : (setP p i x).memp = p.memp := rfl
@[simp] theorem setP_colp (i : Nat) (x : Part) : (setP p i x).colp = p.colp := rfl
@[simp] theorem setP_bb (i : Nat) (x : Part) : (setP p i x).bb = p.bb := rfl
@[simp] theorem setP_ledger (i : Nat) (x : Part) : (setP p i x).ledger = p.ledger := rfl
@[simp] theorem setP_nvm (i : Nat) (x : Part) : (setP p i x).nvm = p.nvm := rfl
@[simp] theorem setP_fuses (i : Nat) (x : Part) : (setP p i x).fuses = p.fuses := rfl
@[simp] theorem setP_boot (i : Nat) (x : Part) : (setP p i x).boot = p.boot := rfl
@[simp] theorem setP_stalls (i : Nat) (x : Part) : (setP p i x).stalls = p.stalls := rfl
@[simp] theorem setP_mem (i : Nat) (x : Part) : (setP p i x).mem = p.mem := rfl
@[simp] theorem setP_freeCtr (i : Nat) (x : Part) : (setP p i x).freeCtr = p.freeCtr := rfl

/-! ### setM -/

@[simp] theorem setM_regs (m : Nat) (x : Mbx) : (setM p m x).regs = p.regs := rfl
@[simp] theorem setM_mbxMem (m : Nat) (x : Mbx) : (setM p m x).mbxMem = p.mbxMem := rfl
@[simp] theorem setM_sessions (m : Nat) (x : Mbx) : (setM p m x).sessions = p.sessions := rfl
@[simp] theorem setM_txns (m : Nat) (x : Mbx) : (setM p m x).txns = p.txns := rfl
@[simp] theorem setM_order (m : Nat) (x : Mbx) : (setM p m x).order = p.order := rfl
@[simp] theorem setM_mbxNext (m : Nat) (x : Mbx) : (setM p m x).mbxNext = p.mbxNext := rfl
@[simp] theorem setM_parts (m : Nat) (x : Mbx) : (setM p m x).parts = p.parts := rfl
@[simp] theorem setM_duties (m : Nat) (x : Mbx) : (setM p m x).duties = p.duties := rfl
@[simp] theorem setM_coef (m : Nat) (x : Mbx) : (setM p m x).coef = p.coef := rfl
@[simp] theorem setM_gaz (m : Nat) (x : Mbx) : (setM p m x).gaz = p.gaz := rfl
@[simp] theorem setM_hist (m : Nat) (x : Mbx) : (setM p m x).hist = p.hist := rfl
@[simp] theorem setM_vengs (m : Nat) (x : Mbx) : (setM p m x).vengs = p.vengs := rfl
@[simp] theorem setM_flights (m : Nat) (x : Mbx) : (setM p m x).flights = p.flights := rfl
@[simp] theorem setM_nextId (m : Nat) (x : Mbx) : (setM p m x).nextId = p.nextId := rfl
@[simp] theorem setM_streams (m : Nat) (x : Mbx) : (setM p m x).streams = p.streams := rfl
@[simp] theorem setM_queues (m : Nat) (x : Mbx) : (setM p m x).queues = p.queues := rfl
@[simp] theorem setM_rowDir (m : Nat) (x : Mbx) : (setM p m x).rowDir = p.rowDir := rfl
@[simp] theorem setM_rdOwner (m : Nat) (x : Mbx) : (setM p m x).rdOwner = p.rdOwner := rfl
@[simp] theorem setM_cross (m : Nat) (x : Mbx) : (setM p m x).cross = p.cross := rfl
@[simp] theorem setM_ringSends (m : Nat) (x : Mbx) : (setM p m x).ringSends = p.ringSends := rfl
@[simp] theorem setM_ringRecvs (m : Nat) (x : Mbx) : (setM p m x).ringRecvs = p.ringRecvs := rfl
@[simp] theorem setM_gslots (m : Nat) (x : Mbx) : (setM p m x).gslots = p.gslots := rfl
@[simp] theorem setM_peers (m : Nat) (x : Mbx) : (setM p m x).peers = p.peers := rfl
@[simp] theorem setM_colls (m : Nat) (x : Mbx) : (setM p m x).colls = p.colls := rfl
@[simp] theorem setM_sent (m : Nat) (x : Mbx) : (setM p m x).sent = p.sent := rfl
@[simp] theorem setM_heldRuns (m : Nat) (x : Mbx) : (setM p m x).heldRuns = p.heldRuns := rfl
@[simp] theorem setM_heldPkts (m : Nat) (x : Mbx) : (setM p m x).heldPkts = p.heldPkts := rfl
@[simp] theorem setM_phys (m : Nat) (x : Mbx) : (setM p m x).phys = p.phys := rfl
@[simp] theorem setM_regions (m : Nat) (x : Mbx) : (setM p m x).regions = p.regions := rfl
@[simp] theorem setM_pins (m : Nat) (x : Mbx) : (setM p m x).pins = p.pins := rfl
@[simp] theorem setM_memp (m : Nat) (x : Mbx) : (setM p m x).memp = p.memp := rfl
@[simp] theorem setM_colp (m : Nat) (x : Mbx) : (setM p m x).colp = p.colp := rfl
@[simp] theorem setM_bb (m : Nat) (x : Mbx) : (setM p m x).bb = p.bb := rfl
@[simp] theorem setM_ledger (m : Nat) (x : Mbx) : (setM p m x).ledger = p.ledger := rfl
@[simp] theorem setM_nvm (m : Nat) (x : Mbx) : (setM p m x).nvm = p.nvm := rfl
@[simp] theorem setM_fuses (m : Nat) (x : Mbx) : (setM p m x).fuses = p.fuses := rfl
@[simp] theorem setM_boot (m : Nat) (x : Mbx) : (setM p m x).boot = p.boot := rfl
@[simp] theorem setM_stalls (m : Nat) (x : Mbx) : (setM p m x).stalls = p.stalls := rfl
@[simp] theorem setM_mem (m : Nat) (x : Mbx) : (setM p m x).mem = p.mem := rfl
@[simp] theorem setM_freeCtr (m : Nat) (x : Mbx) : (setM p m x).freeCtr = p.freeCtr := rfl

/-! ### setPhys -/

@[simp] theorem setPhys_regs (e : Nat) (x : Phys) : (setPhys p e x).regs = p.regs := rfl
@[simp] theorem setPhys_mbx (e : Nat) (x : Phys) : (setPhys p e x).mbx = p.mbx := rfl
@[simp] theorem setPhys_mbxMem (e : Nat) (x : Phys) : (setPhys p e x).mbxMem = p.mbxMem := rfl
@[simp] theorem setPhys_sessions (e : Nat) (x : Phys) : (setPhys p e x).sessions = p.sessions := rfl
@[simp] theorem setPhys_txns (e : Nat) (x : Phys) : (setPhys p e x).txns = p.txns := rfl
@[simp] theorem setPhys_order (e : Nat) (x : Phys) : (setPhys p e x).order = p.order := rfl
@[simp] theorem setPhys_mbxNext (e : Nat) (x : Phys) : (setPhys p e x).mbxNext = p.mbxNext := rfl
@[simp] theorem setPhys_parts (e : Nat) (x : Phys) : (setPhys p e x).parts = p.parts := rfl
@[simp] theorem setPhys_duties (e : Nat) (x : Phys) : (setPhys p e x).duties = p.duties := rfl
@[simp] theorem setPhys_coef (e : Nat) (x : Phys) : (setPhys p e x).coef = p.coef := rfl
@[simp] theorem setPhys_gaz (e : Nat) (x : Phys) : (setPhys p e x).gaz = p.gaz := rfl
@[simp] theorem setPhys_hist (e : Nat) (x : Phys) : (setPhys p e x).hist = p.hist := rfl
@[simp] theorem setPhys_vengs (e : Nat) (x : Phys) : (setPhys p e x).vengs = p.vengs := rfl
@[simp] theorem setPhys_flights (e : Nat) (x : Phys) : (setPhys p e x).flights = p.flights := rfl
@[simp] theorem setPhys_nextId (e : Nat) (x : Phys) : (setPhys p e x).nextId = p.nextId := rfl
@[simp] theorem setPhys_streams (e : Nat) (x : Phys) : (setPhys p e x).streams = p.streams := rfl
@[simp] theorem setPhys_queues (e : Nat) (x : Phys) : (setPhys p e x).queues = p.queues := rfl
@[simp] theorem setPhys_rowDir (e : Nat) (x : Phys) : (setPhys p e x).rowDir = p.rowDir := rfl
@[simp] theorem setPhys_rdOwner (e : Nat) (x : Phys) : (setPhys p e x).rdOwner = p.rdOwner := rfl
@[simp] theorem setPhys_cross (e : Nat) (x : Phys) : (setPhys p e x).cross = p.cross := rfl
@[simp] theorem setPhys_ringSends (e : Nat) (x : Phys) : (setPhys p e x).ringSends = p.ringSends := rfl
@[simp] theorem setPhys_ringRecvs (e : Nat) (x : Phys) : (setPhys p e x).ringRecvs = p.ringRecvs := rfl
@[simp] theorem setPhys_gslots (e : Nat) (x : Phys) : (setPhys p e x).gslots = p.gslots := rfl
@[simp] theorem setPhys_peers (e : Nat) (x : Phys) : (setPhys p e x).peers = p.peers := rfl
@[simp] theorem setPhys_colls (e : Nat) (x : Phys) : (setPhys p e x).colls = p.colls := rfl
@[simp] theorem setPhys_sent (e : Nat) (x : Phys) : (setPhys p e x).sent = p.sent := rfl
@[simp] theorem setPhys_heldRuns (e : Nat) (x : Phys) : (setPhys p e x).heldRuns = p.heldRuns := rfl
@[simp] theorem setPhys_heldPkts (e : Nat) (x : Phys) : (setPhys p e x).heldPkts = p.heldPkts := rfl
@[simp] theorem setPhys_regions (e : Nat) (x : Phys) : (setPhys p e x).regions = p.regions := rfl
@[simp] theorem setPhys_pins (e : Nat) (x : Phys) : (setPhys p e x).pins = p.pins := rfl
@[simp] theorem setPhys_memp (e : Nat) (x : Phys) : (setPhys p e x).memp = p.memp := rfl
@[simp] theorem setPhys_colp (e : Nat) (x : Phys) : (setPhys p e x).colp = p.colp := rfl
@[simp] theorem setPhys_bb (e : Nat) (x : Phys) : (setPhys p e x).bb = p.bb := rfl
@[simp] theorem setPhys_ledger (e : Nat) (x : Phys) : (setPhys p e x).ledger = p.ledger := rfl
@[simp] theorem setPhys_nvm (e : Nat) (x : Phys) : (setPhys p e x).nvm = p.nvm := rfl
@[simp] theorem setPhys_fuses (e : Nat) (x : Phys) : (setPhys p e x).fuses = p.fuses := rfl
@[simp] theorem setPhys_boot (e : Nat) (x : Phys) : (setPhys p e x).boot = p.boot := rfl
@[simp] theorem setPhys_stalls (e : Nat) (x : Phys) : (setPhys p e x).stalls = p.stalls := rfl
@[simp] theorem setPhys_mem (e : Nat) (x : Phys) : (setPhys p e x).mem = p.mem := rfl
@[simp] theorem setPhys_freeCtr (e : Nat) (x : Phys) : (setPhys p e x).freeCtr = p.freeCtr := rfl

/-! ### setRg -/

@[simp] theorem setRg_regs (r : Nat) (x : Region) : (setRg p r x).regs = p.regs := rfl
@[simp] theorem setRg_mbx (r : Nat) (x : Region) : (setRg p r x).mbx = p.mbx := rfl
@[simp] theorem setRg_mbxMem (r : Nat) (x : Region) : (setRg p r x).mbxMem = p.mbxMem := rfl
@[simp] theorem setRg_sessions (r : Nat) (x : Region) : (setRg p r x).sessions = p.sessions := rfl
@[simp] theorem setRg_txns (r : Nat) (x : Region) : (setRg p r x).txns = p.txns := rfl
@[simp] theorem setRg_order (r : Nat) (x : Region) : (setRg p r x).order = p.order := rfl
@[simp] theorem setRg_mbxNext (r : Nat) (x : Region) : (setRg p r x).mbxNext = p.mbxNext := rfl
@[simp] theorem setRg_parts (r : Nat) (x : Region) : (setRg p r x).parts = p.parts := rfl
@[simp] theorem setRg_duties (r : Nat) (x : Region) : (setRg p r x).duties = p.duties := rfl
@[simp] theorem setRg_coef (r : Nat) (x : Region) : (setRg p r x).coef = p.coef := rfl
@[simp] theorem setRg_gaz (r : Nat) (x : Region) : (setRg p r x).gaz = p.gaz := rfl
@[simp] theorem setRg_hist (r : Nat) (x : Region) : (setRg p r x).hist = p.hist := rfl
@[simp] theorem setRg_vengs (r : Nat) (x : Region) : (setRg p r x).vengs = p.vengs := rfl
@[simp] theorem setRg_flights (r : Nat) (x : Region) : (setRg p r x).flights = p.flights := rfl
@[simp] theorem setRg_nextId (r : Nat) (x : Region) : (setRg p r x).nextId = p.nextId := rfl
@[simp] theorem setRg_streams (r : Nat) (x : Region) : (setRg p r x).streams = p.streams := rfl
@[simp] theorem setRg_queues (r : Nat) (x : Region) : (setRg p r x).queues = p.queues := rfl
@[simp] theorem setRg_rowDir (r : Nat) (x : Region) : (setRg p r x).rowDir = p.rowDir := rfl
@[simp] theorem setRg_rdOwner (r : Nat) (x : Region) : (setRg p r x).rdOwner = p.rdOwner := rfl
@[simp] theorem setRg_cross (r : Nat) (x : Region) : (setRg p r x).cross = p.cross := rfl
@[simp] theorem setRg_ringSends (r : Nat) (x : Region) : (setRg p r x).ringSends = p.ringSends := rfl
@[simp] theorem setRg_ringRecvs (r : Nat) (x : Region) : (setRg p r x).ringRecvs = p.ringRecvs := rfl
@[simp] theorem setRg_gslots (r : Nat) (x : Region) : (setRg p r x).gslots = p.gslots := rfl
@[simp] theorem setRg_peers (r : Nat) (x : Region) : (setRg p r x).peers = p.peers := rfl
@[simp] theorem setRg_colls (r : Nat) (x : Region) : (setRg p r x).colls = p.colls := rfl
@[simp] theorem setRg_sent (r : Nat) (x : Region) : (setRg p r x).sent = p.sent := rfl
@[simp] theorem setRg_heldRuns (r : Nat) (x : Region) : (setRg p r x).heldRuns = p.heldRuns := rfl
@[simp] theorem setRg_heldPkts (r : Nat) (x : Region) : (setRg p r x).heldPkts = p.heldPkts := rfl
@[simp] theorem setRg_phys (r : Nat) (x : Region) : (setRg p r x).phys = p.phys := rfl
@[simp] theorem setRg_pins (r : Nat) (x : Region) : (setRg p r x).pins = p.pins := rfl
@[simp] theorem setRg_memp (r : Nat) (x : Region) : (setRg p r x).memp = p.memp := rfl
@[simp] theorem setRg_colp (r : Nat) (x : Region) : (setRg p r x).colp = p.colp := rfl
@[simp] theorem setRg_bb (r : Nat) (x : Region) : (setRg p r x).bb = p.bb := rfl
@[simp] theorem setRg_ledger (r : Nat) (x : Region) : (setRg p r x).ledger = p.ledger := rfl
@[simp] theorem setRg_nvm (r : Nat) (x : Region) : (setRg p r x).nvm = p.nvm := rfl
@[simp] theorem setRg_fuses (r : Nat) (x : Region) : (setRg p r x).fuses = p.fuses := rfl
@[simp] theorem setRg_boot (r : Nat) (x : Region) : (setRg p r x).boot = p.boot := rfl
@[simp] theorem setRg_stalls (r : Nat) (x : Region) : (setRg p r x).stalls = p.stalls := rfl
@[simp] theorem setRg_mem (r : Nat) (x : Region) : (setRg p r x).mem = p.mem := rfl
@[simp] theorem setRg_freeCtr (r : Nat) (x : Region) : (setRg p r x).freeCtr = p.freeCtr := rfl

/-! ### setMP -/

@[simp] theorem setMP_regs (n : Nat) (x : MPort) : (setMP p n x).regs = p.regs := rfl
@[simp] theorem setMP_mbx (n : Nat) (x : MPort) : (setMP p n x).mbx = p.mbx := rfl
@[simp] theorem setMP_mbxMem (n : Nat) (x : MPort) : (setMP p n x).mbxMem = p.mbxMem := rfl
@[simp] theorem setMP_sessions (n : Nat) (x : MPort) : (setMP p n x).sessions = p.sessions := rfl
@[simp] theorem setMP_txns (n : Nat) (x : MPort) : (setMP p n x).txns = p.txns := rfl
@[simp] theorem setMP_order (n : Nat) (x : MPort) : (setMP p n x).order = p.order := rfl
@[simp] theorem setMP_mbxNext (n : Nat) (x : MPort) : (setMP p n x).mbxNext = p.mbxNext := rfl
@[simp] theorem setMP_parts (n : Nat) (x : MPort) : (setMP p n x).parts = p.parts := rfl
@[simp] theorem setMP_duties (n : Nat) (x : MPort) : (setMP p n x).duties = p.duties := rfl
@[simp] theorem setMP_coef (n : Nat) (x : MPort) : (setMP p n x).coef = p.coef := rfl
@[simp] theorem setMP_gaz (n : Nat) (x : MPort) : (setMP p n x).gaz = p.gaz := rfl
@[simp] theorem setMP_hist (n : Nat) (x : MPort) : (setMP p n x).hist = p.hist := rfl
@[simp] theorem setMP_vengs (n : Nat) (x : MPort) : (setMP p n x).vengs = p.vengs := rfl
@[simp] theorem setMP_flights (n : Nat) (x : MPort) : (setMP p n x).flights = p.flights := rfl
@[simp] theorem setMP_nextId (n : Nat) (x : MPort) : (setMP p n x).nextId = p.nextId := rfl
@[simp] theorem setMP_streams (n : Nat) (x : MPort) : (setMP p n x).streams = p.streams := rfl
@[simp] theorem setMP_queues (n : Nat) (x : MPort) : (setMP p n x).queues = p.queues := rfl
@[simp] theorem setMP_rowDir (n : Nat) (x : MPort) : (setMP p n x).rowDir = p.rowDir := rfl
@[simp] theorem setMP_rdOwner (n : Nat) (x : MPort) : (setMP p n x).rdOwner = p.rdOwner := rfl
@[simp] theorem setMP_cross (n : Nat) (x : MPort) : (setMP p n x).cross = p.cross := rfl
@[simp] theorem setMP_ringSends (n : Nat) (x : MPort) : (setMP p n x).ringSends = p.ringSends := rfl
@[simp] theorem setMP_ringRecvs (n : Nat) (x : MPort) : (setMP p n x).ringRecvs = p.ringRecvs := rfl
@[simp] theorem setMP_gslots (n : Nat) (x : MPort) : (setMP p n x).gslots = p.gslots := rfl
@[simp] theorem setMP_peers (n : Nat) (x : MPort) : (setMP p n x).peers = p.peers := rfl
@[simp] theorem setMP_colls (n : Nat) (x : MPort) : (setMP p n x).colls = p.colls := rfl
@[simp] theorem setMP_sent (n : Nat) (x : MPort) : (setMP p n x).sent = p.sent := rfl
@[simp] theorem setMP_heldRuns (n : Nat) (x : MPort) : (setMP p n x).heldRuns = p.heldRuns := rfl
@[simp] theorem setMP_heldPkts (n : Nat) (x : MPort) : (setMP p n x).heldPkts = p.heldPkts := rfl
@[simp] theorem setMP_phys (n : Nat) (x : MPort) : (setMP p n x).phys = p.phys := rfl
@[simp] theorem setMP_regions (n : Nat) (x : MPort) : (setMP p n x).regions = p.regions := rfl
@[simp] theorem setMP_pins (n : Nat) (x : MPort) : (setMP p n x).pins = p.pins := rfl
@[simp] theorem setMP_colp (n : Nat) (x : MPort) : (setMP p n x).colp = p.colp := rfl
@[simp] theorem setMP_bb (n : Nat) (x : MPort) : (setMP p n x).bb = p.bb := rfl
@[simp] theorem setMP_ledger (n : Nat) (x : MPort) : (setMP p n x).ledger = p.ledger := rfl
@[simp] theorem setMP_nvm (n : Nat) (x : MPort) : (setMP p n x).nvm = p.nvm := rfl
@[simp] theorem setMP_fuses (n : Nat) (x : MPort) : (setMP p n x).fuses = p.fuses := rfl
@[simp] theorem setMP_boot (n : Nat) (x : MPort) : (setMP p n x).boot = p.boot := rfl
@[simp] theorem setMP_stalls (n : Nat) (x : MPort) : (setMP p n x).stalls = p.stalls := rfl
@[simp] theorem setMP_mem (n : Nat) (x : MPort) : (setMP p n x).mem = p.mem := rfl
@[simp] theorem setMP_freeCtr (n : Nat) (x : MPort) : (setMP p n x).freeCtr = p.freeCtr := rfl

/-! ### setCP -/

@[simp] theorem setCP_regs (n : Nat) (x : CPort) : (setCP p n x).regs = p.regs := rfl
@[simp] theorem setCP_mbx (n : Nat) (x : CPort) : (setCP p n x).mbx = p.mbx := rfl
@[simp] theorem setCP_mbxMem (n : Nat) (x : CPort) : (setCP p n x).mbxMem = p.mbxMem := rfl
@[simp] theorem setCP_sessions (n : Nat) (x : CPort) : (setCP p n x).sessions = p.sessions := rfl
@[simp] theorem setCP_txns (n : Nat) (x : CPort) : (setCP p n x).txns = p.txns := rfl
@[simp] theorem setCP_order (n : Nat) (x : CPort) : (setCP p n x).order = p.order := rfl
@[simp] theorem setCP_mbxNext (n : Nat) (x : CPort) : (setCP p n x).mbxNext = p.mbxNext := rfl
@[simp] theorem setCP_parts (n : Nat) (x : CPort) : (setCP p n x).parts = p.parts := rfl
@[simp] theorem setCP_duties (n : Nat) (x : CPort) : (setCP p n x).duties = p.duties := rfl
@[simp] theorem setCP_coef (n : Nat) (x : CPort) : (setCP p n x).coef = p.coef := rfl
@[simp] theorem setCP_gaz (n : Nat) (x : CPort) : (setCP p n x).gaz = p.gaz := rfl
@[simp] theorem setCP_hist (n : Nat) (x : CPort) : (setCP p n x).hist = p.hist := rfl
@[simp] theorem setCP_vengs (n : Nat) (x : CPort) : (setCP p n x).vengs = p.vengs := rfl
@[simp] theorem setCP_flights (n : Nat) (x : CPort) : (setCP p n x).flights = p.flights := rfl
@[simp] theorem setCP_nextId (n : Nat) (x : CPort) : (setCP p n x).nextId = p.nextId := rfl
@[simp] theorem setCP_streams (n : Nat) (x : CPort) : (setCP p n x).streams = p.streams := rfl
@[simp] theorem setCP_queues (n : Nat) (x : CPort) : (setCP p n x).queues = p.queues := rfl
@[simp] theorem setCP_rowDir (n : Nat) (x : CPort) : (setCP p n x).rowDir = p.rowDir := rfl
@[simp] theorem setCP_rdOwner (n : Nat) (x : CPort) : (setCP p n x).rdOwner = p.rdOwner := rfl
@[simp] theorem setCP_cross (n : Nat) (x : CPort) : (setCP p n x).cross = p.cross := rfl
@[simp] theorem setCP_ringSends (n : Nat) (x : CPort) : (setCP p n x).ringSends = p.ringSends := rfl
@[simp] theorem setCP_ringRecvs (n : Nat) (x : CPort) : (setCP p n x).ringRecvs = p.ringRecvs := rfl
@[simp] theorem setCP_gslots (n : Nat) (x : CPort) : (setCP p n x).gslots = p.gslots := rfl
@[simp] theorem setCP_peers (n : Nat) (x : CPort) : (setCP p n x).peers = p.peers := rfl
@[simp] theorem setCP_colls (n : Nat) (x : CPort) : (setCP p n x).colls = p.colls := rfl
@[simp] theorem setCP_sent (n : Nat) (x : CPort) : (setCP p n x).sent = p.sent := rfl
@[simp] theorem setCP_heldRuns (n : Nat) (x : CPort) : (setCP p n x).heldRuns = p.heldRuns := rfl
@[simp] theorem setCP_heldPkts (n : Nat) (x : CPort) : (setCP p n x).heldPkts = p.heldPkts := rfl
@[simp] theorem setCP_phys (n : Nat) (x : CPort) : (setCP p n x).phys = p.phys := rfl
@[simp] theorem setCP_regions (n : Nat) (x : CPort) : (setCP p n x).regions = p.regions := rfl
@[simp] theorem setCP_pins (n : Nat) (x : CPort) : (setCP p n x).pins = p.pins := rfl
@[simp] theorem setCP_memp (n : Nat) (x : CPort) : (setCP p n x).memp = p.memp := rfl
@[simp] theorem setCP_bb (n : Nat) (x : CPort) : (setCP p n x).bb = p.bb := rfl
@[simp] theorem setCP_ledger (n : Nat) (x : CPort) : (setCP p n x).ledger = p.ledger := rfl
@[simp] theorem setCP_nvm (n : Nat) (x : CPort) : (setCP p n x).nvm = p.nvm := rfl
@[simp] theorem setCP_fuses (n : Nat) (x : CPort) : (setCP p n x).fuses = p.fuses := rfl
@[simp] theorem setCP_boot (n : Nat) (x : CPort) : (setCP p n x).boot = p.boot := rfl
@[simp] theorem setCP_stalls (n : Nat) (x : CPort) : (setCP p n x).stalls = p.stalls := rfl
@[simp] theorem setCP_mem (n : Nat) (x : CPort) : (setCP p n x).mem = p.mem := rfl
@[simp] theorem setCP_freeCtr (n : Nat) (x : CPort) : (setCP p n x).freeCtr = p.freeCtr := rfl

/-! ### setQ -/

@[simp] theorem setQ_regs (q : Nat) (x : Hq) : (setQ p q x).regs = p.regs := rfl
@[simp] theorem setQ_mbx (q : Nat) (x : Hq) : (setQ p q x).mbx = p.mbx := rfl
@[simp] theorem setQ_mbxMem (q : Nat) (x : Hq) : (setQ p q x).mbxMem = p.mbxMem := rfl
@[simp] theorem setQ_sessions (q : Nat) (x : Hq) : (setQ p q x).sessions = p.sessions := rfl
@[simp] theorem setQ_txns (q : Nat) (x : Hq) : (setQ p q x).txns = p.txns := rfl
@[simp] theorem setQ_order (q : Nat) (x : Hq) : (setQ p q x).order = p.order := rfl
@[simp] theorem setQ_mbxNext (q : Nat) (x : Hq) : (setQ p q x).mbxNext = p.mbxNext := rfl
@[simp] theorem setQ_parts (q : Nat) (x : Hq) : (setQ p q x).parts = p.parts := rfl
@[simp] theorem setQ_duties (q : Nat) (x : Hq) : (setQ p q x).duties = p.duties := rfl
@[simp] theorem setQ_coef (q : Nat) (x : Hq) : (setQ p q x).coef = p.coef := rfl
@[simp] theorem setQ_gaz (q : Nat) (x : Hq) : (setQ p q x).gaz = p.gaz := rfl
@[simp] theorem setQ_hist (q : Nat) (x : Hq) : (setQ p q x).hist = p.hist := rfl
@[simp] theorem setQ_vengs (q : Nat) (x : Hq) : (setQ p q x).vengs = p.vengs := rfl
@[simp] theorem setQ_flights (q : Nat) (x : Hq) : (setQ p q x).flights = p.flights := rfl
@[simp] theorem setQ_nextId (q : Nat) (x : Hq) : (setQ p q x).nextId = p.nextId := rfl
@[simp] theorem setQ_streams (q : Nat) (x : Hq) : (setQ p q x).streams = p.streams := rfl
@[simp] theorem setQ_rowDir (q : Nat) (x : Hq) : (setQ p q x).rowDir = p.rowDir := rfl
@[simp] theorem setQ_rdOwner (q : Nat) (x : Hq) : (setQ p q x).rdOwner = p.rdOwner := rfl
@[simp] theorem setQ_cross (q : Nat) (x : Hq) : (setQ p q x).cross = p.cross := rfl
@[simp] theorem setQ_ringSends (q : Nat) (x : Hq) : (setQ p q x).ringSends = p.ringSends := rfl
@[simp] theorem setQ_ringRecvs (q : Nat) (x : Hq) : (setQ p q x).ringRecvs = p.ringRecvs := rfl
@[simp] theorem setQ_gslots (q : Nat) (x : Hq) : (setQ p q x).gslots = p.gslots := rfl
@[simp] theorem setQ_peers (q : Nat) (x : Hq) : (setQ p q x).peers = p.peers := rfl
@[simp] theorem setQ_colls (q : Nat) (x : Hq) : (setQ p q x).colls = p.colls := rfl
@[simp] theorem setQ_sent (q : Nat) (x : Hq) : (setQ p q x).sent = p.sent := rfl
@[simp] theorem setQ_heldRuns (q : Nat) (x : Hq) : (setQ p q x).heldRuns = p.heldRuns := rfl
@[simp] theorem setQ_heldPkts (q : Nat) (x : Hq) : (setQ p q x).heldPkts = p.heldPkts := rfl
@[simp] theorem setQ_phys (q : Nat) (x : Hq) : (setQ p q x).phys = p.phys := rfl
@[simp] theorem setQ_regions (q : Nat) (x : Hq) : (setQ p q x).regions = p.regions := rfl
@[simp] theorem setQ_pins (q : Nat) (x : Hq) : (setQ p q x).pins = p.pins := rfl
@[simp] theorem setQ_memp (q : Nat) (x : Hq) : (setQ p q x).memp = p.memp := rfl
@[simp] theorem setQ_colp (q : Nat) (x : Hq) : (setQ p q x).colp = p.colp := rfl
@[simp] theorem setQ_bb (q : Nat) (x : Hq) : (setQ p q x).bb = p.bb := rfl
@[simp] theorem setQ_ledger (q : Nat) (x : Hq) : (setQ p q x).ledger = p.ledger := rfl
@[simp] theorem setQ_nvm (q : Nat) (x : Hq) : (setQ p q x).nvm = p.nvm := rfl
@[simp] theorem setQ_fuses (q : Nat) (x : Hq) : (setQ p q x).fuses = p.fuses := rfl
@[simp] theorem setQ_boot (q : Nat) (x : Hq) : (setQ p q x).boot = p.boot := rfl
@[simp] theorem setQ_stalls (q : Nat) (x : Hq) : (setQ p q x).stalls = p.stalls := rfl
@[simp] theorem setQ_mem (q : Nat) (x : Hq) : (setQ p q x).mem = p.mem := rfl
@[simp] theorem setQ_freeCtr (q : Nat) (x : Hq) : (setQ p q x).freeCtr = p.freeCtr := rfl

/-! ### setSlot -/

@[simp] theorem setSlot_regs (g : Nat) (x : BitVec 256) : (setSlot p g x).regs = p.regs := rfl
@[simp] theorem setSlot_mbx (g : Nat) (x : BitVec 256) : (setSlot p g x).mbx = p.mbx := rfl
@[simp] theorem setSlot_mbxMem (g : Nat) (x : BitVec 256) : (setSlot p g x).mbxMem = p.mbxMem := rfl
@[simp] theorem setSlot_sessions (g : Nat) (x : BitVec 256) : (setSlot p g x).sessions = p.sessions := rfl
@[simp] theorem setSlot_txns (g : Nat) (x : BitVec 256) : (setSlot p g x).txns = p.txns := rfl
@[simp] theorem setSlot_order (g : Nat) (x : BitVec 256) : (setSlot p g x).order = p.order := rfl
@[simp] theorem setSlot_mbxNext (g : Nat) (x : BitVec 256) : (setSlot p g x).mbxNext = p.mbxNext := rfl
@[simp] theorem setSlot_parts (g : Nat) (x : BitVec 256) : (setSlot p g x).parts = p.parts := rfl
@[simp] theorem setSlot_duties (g : Nat) (x : BitVec 256) : (setSlot p g x).duties = p.duties := rfl
@[simp] theorem setSlot_coef (g : Nat) (x : BitVec 256) : (setSlot p g x).coef = p.coef := rfl
@[simp] theorem setSlot_gaz (g : Nat) (x : BitVec 256) : (setSlot p g x).gaz = p.gaz := rfl
@[simp] theorem setSlot_hist (g : Nat) (x : BitVec 256) : (setSlot p g x).hist = p.hist := rfl
@[simp] theorem setSlot_vengs (g : Nat) (x : BitVec 256) : (setSlot p g x).vengs = p.vengs := rfl
@[simp] theorem setSlot_flights (g : Nat) (x : BitVec 256) : (setSlot p g x).flights = p.flights := rfl
@[simp] theorem setSlot_nextId (g : Nat) (x : BitVec 256) : (setSlot p g x).nextId = p.nextId := rfl
@[simp] theorem setSlot_streams (g : Nat) (x : BitVec 256) : (setSlot p g x).streams = p.streams := rfl
@[simp] theorem setSlot_queues (g : Nat) (x : BitVec 256) : (setSlot p g x).queues = p.queues := rfl
@[simp] theorem setSlot_rowDir (g : Nat) (x : BitVec 256) : (setSlot p g x).rowDir = p.rowDir := rfl
@[simp] theorem setSlot_rdOwner (g : Nat) (x : BitVec 256) : (setSlot p g x).rdOwner = p.rdOwner := rfl
@[simp] theorem setSlot_cross (g : Nat) (x : BitVec 256) : (setSlot p g x).cross = p.cross := rfl
@[simp] theorem setSlot_ringSends (g : Nat) (x : BitVec 256) : (setSlot p g x).ringSends = p.ringSends := rfl
@[simp] theorem setSlot_ringRecvs (g : Nat) (x : BitVec 256) : (setSlot p g x).ringRecvs = p.ringRecvs := rfl
@[simp] theorem setSlot_peers (g : Nat) (x : BitVec 256) : (setSlot p g x).peers = p.peers := rfl
@[simp] theorem setSlot_colls (g : Nat) (x : BitVec 256) : (setSlot p g x).colls = p.colls := rfl
@[simp] theorem setSlot_sent (g : Nat) (x : BitVec 256) : (setSlot p g x).sent = p.sent := rfl
@[simp] theorem setSlot_heldRuns (g : Nat) (x : BitVec 256) : (setSlot p g x).heldRuns = p.heldRuns := rfl
@[simp] theorem setSlot_heldPkts (g : Nat) (x : BitVec 256) : (setSlot p g x).heldPkts = p.heldPkts := rfl
@[simp] theorem setSlot_phys (g : Nat) (x : BitVec 256) : (setSlot p g x).phys = p.phys := rfl
@[simp] theorem setSlot_regions (g : Nat) (x : BitVec 256) : (setSlot p g x).regions = p.regions := rfl
@[simp] theorem setSlot_pins (g : Nat) (x : BitVec 256) : (setSlot p g x).pins = p.pins := rfl
@[simp] theorem setSlot_memp (g : Nat) (x : BitVec 256) : (setSlot p g x).memp = p.memp := rfl
@[simp] theorem setSlot_colp (g : Nat) (x : BitVec 256) : (setSlot p g x).colp = p.colp := rfl
@[simp] theorem setSlot_bb (g : Nat) (x : BitVec 256) : (setSlot p g x).bb = p.bb := rfl
@[simp] theorem setSlot_ledger (g : Nat) (x : BitVec 256) : (setSlot p g x).ledger = p.ledger := rfl
@[simp] theorem setSlot_nvm (g : Nat) (x : BitVec 256) : (setSlot p g x).nvm = p.nvm := rfl
@[simp] theorem setSlot_fuses (g : Nat) (x : BitVec 256) : (setSlot p g x).fuses = p.fuses := rfl
@[simp] theorem setSlot_boot (g : Nat) (x : BitVec 256) : (setSlot p g x).boot = p.boot := rfl
@[simp] theorem setSlot_stalls (g : Nat) (x : BitVec 256) : (setSlot p g x).stalls = p.stalls := rfl
@[simp] theorem setSlot_mem (g : Nat) (x : BitVec 256) : (setSlot p g x).mem = p.mem := rfl
@[simp] theorem setSlot_freeCtr (g : Nat) (x : BitVec 256) : (setSlot p g x).freeCtr = p.freeCtr := rfl

/-! ### memStore -/

@[simp] theorem memStore_regs (a : Nat) (bs : List Byte) : (memStore p a bs).regs = p.regs := rfl
@[simp] theorem memStore_mbx (a : Nat) (bs : List Byte) : (memStore p a bs).mbx = p.mbx := rfl
@[simp] theorem memStore_mbxMem (a : Nat) (bs : List Byte) : (memStore p a bs).mbxMem = p.mbxMem := rfl
@[simp] theorem memStore_sessions (a : Nat) (bs : List Byte) : (memStore p a bs).sessions = p.sessions := rfl
@[simp] theorem memStore_txns (a : Nat) (bs : List Byte) : (memStore p a bs).txns = p.txns := rfl
@[simp] theorem memStore_order (a : Nat) (bs : List Byte) : (memStore p a bs).order = p.order := rfl
@[simp] theorem memStore_mbxNext (a : Nat) (bs : List Byte) : (memStore p a bs).mbxNext = p.mbxNext := rfl
@[simp] theorem memStore_parts (a : Nat) (bs : List Byte) : (memStore p a bs).parts = p.parts := rfl
@[simp] theorem memStore_duties (a : Nat) (bs : List Byte) : (memStore p a bs).duties = p.duties := rfl
@[simp] theorem memStore_coef (a : Nat) (bs : List Byte) : (memStore p a bs).coef = p.coef := rfl
@[simp] theorem memStore_gaz (a : Nat) (bs : List Byte) : (memStore p a bs).gaz = p.gaz := rfl
@[simp] theorem memStore_hist (a : Nat) (bs : List Byte) : (memStore p a bs).hist = p.hist := rfl
@[simp] theorem memStore_vengs (a : Nat) (bs : List Byte) : (memStore p a bs).vengs = p.vengs := rfl
@[simp] theorem memStore_flights (a : Nat) (bs : List Byte) : (memStore p a bs).flights = p.flights := rfl
@[simp] theorem memStore_nextId (a : Nat) (bs : List Byte) : (memStore p a bs).nextId = p.nextId := rfl
@[simp] theorem memStore_streams (a : Nat) (bs : List Byte) : (memStore p a bs).streams = p.streams := rfl
@[simp] theorem memStore_queues (a : Nat) (bs : List Byte) : (memStore p a bs).queues = p.queues := rfl
@[simp] theorem memStore_rowDir (a : Nat) (bs : List Byte) : (memStore p a bs).rowDir = p.rowDir := rfl
@[simp] theorem memStore_rdOwner (a : Nat) (bs : List Byte) : (memStore p a bs).rdOwner = p.rdOwner := rfl
@[simp] theorem memStore_cross (a : Nat) (bs : List Byte) : (memStore p a bs).cross = p.cross := rfl
@[simp] theorem memStore_ringSends (a : Nat) (bs : List Byte) : (memStore p a bs).ringSends = p.ringSends := rfl
@[simp] theorem memStore_ringRecvs (a : Nat) (bs : List Byte) : (memStore p a bs).ringRecvs = p.ringRecvs := rfl
@[simp] theorem memStore_gslots (a : Nat) (bs : List Byte) : (memStore p a bs).gslots = p.gslots := rfl
@[simp] theorem memStore_peers (a : Nat) (bs : List Byte) : (memStore p a bs).peers = p.peers := rfl
@[simp] theorem memStore_colls (a : Nat) (bs : List Byte) : (memStore p a bs).colls = p.colls := rfl
@[simp] theorem memStore_sent (a : Nat) (bs : List Byte) : (memStore p a bs).sent = p.sent := rfl
@[simp] theorem memStore_heldRuns (a : Nat) (bs : List Byte) : (memStore p a bs).heldRuns = p.heldRuns := rfl
@[simp] theorem memStore_heldPkts (a : Nat) (bs : List Byte) : (memStore p a bs).heldPkts = p.heldPkts := rfl
@[simp] theorem memStore_phys (a : Nat) (bs : List Byte) : (memStore p a bs).phys = p.phys := rfl
@[simp] theorem memStore_regions (a : Nat) (bs : List Byte) : (memStore p a bs).regions = p.regions := rfl
@[simp] theorem memStore_pins (a : Nat) (bs : List Byte) : (memStore p a bs).pins = p.pins := rfl
@[simp] theorem memStore_memp (a : Nat) (bs : List Byte) : (memStore p a bs).memp = p.memp := rfl
@[simp] theorem memStore_colp (a : Nat) (bs : List Byte) : (memStore p a bs).colp = p.colp := rfl
@[simp] theorem memStore_bb (a : Nat) (bs : List Byte) : (memStore p a bs).bb = p.bb := rfl
@[simp] theorem memStore_ledger (a : Nat) (bs : List Byte) : (memStore p a bs).ledger = p.ledger := rfl
@[simp] theorem memStore_nvm (a : Nat) (bs : List Byte) : (memStore p a bs).nvm = p.nvm := rfl
@[simp] theorem memStore_fuses (a : Nat) (bs : List Byte) : (memStore p a bs).fuses = p.fuses := rfl
@[simp] theorem memStore_boot (a : Nat) (bs : List Byte) : (memStore p a bs).boot = p.boot := rfl
@[simp] theorem memStore_stalls (a : Nat) (bs : List Byte) : (memStore p a bs).stalls = p.stalls := rfl
@[simp] theorem memStore_freeCtr (a : Nat) (bs : List Byte) : (memStore p a bs).freeCtr = p.freeCtr := rfl

/-! ### modV -/

@[simp] theorem modV_regs (v : Nat) (f : VEng → VEng) : (modV p v f).regs = p.regs := rfl
@[simp] theorem modV_mbx (v : Nat) (f : VEng → VEng) : (modV p v f).mbx = p.mbx := rfl
@[simp] theorem modV_mbxMem (v : Nat) (f : VEng → VEng) : (modV p v f).mbxMem = p.mbxMem := rfl
@[simp] theorem modV_sessions (v : Nat) (f : VEng → VEng) : (modV p v f).sessions = p.sessions := rfl
@[simp] theorem modV_txns (v : Nat) (f : VEng → VEng) : (modV p v f).txns = p.txns := rfl
@[simp] theorem modV_order (v : Nat) (f : VEng → VEng) : (modV p v f).order = p.order := rfl
@[simp] theorem modV_mbxNext (v : Nat) (f : VEng → VEng) : (modV p v f).mbxNext = p.mbxNext := rfl
@[simp] theorem modV_parts (v : Nat) (f : VEng → VEng) : (modV p v f).parts = p.parts := rfl
@[simp] theorem modV_duties (v : Nat) (f : VEng → VEng) : (modV p v f).duties = p.duties := rfl
@[simp] theorem modV_coef (v : Nat) (f : VEng → VEng) : (modV p v f).coef = p.coef := rfl
@[simp] theorem modV_gaz (v : Nat) (f : VEng → VEng) : (modV p v f).gaz = p.gaz := rfl
@[simp] theorem modV_hist (v : Nat) (f : VEng → VEng) : (modV p v f).hist = p.hist := rfl
@[simp] theorem modV_flights (v : Nat) (f : VEng → VEng) : (modV p v f).flights = p.flights := rfl
@[simp] theorem modV_nextId (v : Nat) (f : VEng → VEng) : (modV p v f).nextId = p.nextId := rfl
@[simp] theorem modV_streams (v : Nat) (f : VEng → VEng) : (modV p v f).streams = p.streams := rfl
@[simp] theorem modV_queues (v : Nat) (f : VEng → VEng) : (modV p v f).queues = p.queues := rfl
@[simp] theorem modV_rowDir (v : Nat) (f : VEng → VEng) : (modV p v f).rowDir = p.rowDir := rfl
@[simp] theorem modV_rdOwner (v : Nat) (f : VEng → VEng) : (modV p v f).rdOwner = p.rdOwner := rfl
@[simp] theorem modV_cross (v : Nat) (f : VEng → VEng) : (modV p v f).cross = p.cross := rfl
@[simp] theorem modV_ringSends (v : Nat) (f : VEng → VEng) : (modV p v f).ringSends = p.ringSends := rfl
@[simp] theorem modV_ringRecvs (v : Nat) (f : VEng → VEng) : (modV p v f).ringRecvs = p.ringRecvs := rfl
@[simp] theorem modV_gslots (v : Nat) (f : VEng → VEng) : (modV p v f).gslots = p.gslots := rfl
@[simp] theorem modV_peers (v : Nat) (f : VEng → VEng) : (modV p v f).peers = p.peers := rfl
@[simp] theorem modV_colls (v : Nat) (f : VEng → VEng) : (modV p v f).colls = p.colls := rfl
@[simp] theorem modV_sent (v : Nat) (f : VEng → VEng) : (modV p v f).sent = p.sent := rfl
@[simp] theorem modV_heldRuns (v : Nat) (f : VEng → VEng) : (modV p v f).heldRuns = p.heldRuns := rfl
@[simp] theorem modV_heldPkts (v : Nat) (f : VEng → VEng) : (modV p v f).heldPkts = p.heldPkts := rfl
@[simp] theorem modV_phys (v : Nat) (f : VEng → VEng) : (modV p v f).phys = p.phys := rfl
@[simp] theorem modV_regions (v : Nat) (f : VEng → VEng) : (modV p v f).regions = p.regions := rfl
@[simp] theorem modV_pins (v : Nat) (f : VEng → VEng) : (modV p v f).pins = p.pins := rfl
@[simp] theorem modV_memp (v : Nat) (f : VEng → VEng) : (modV p v f).memp = p.memp := rfl
@[simp] theorem modV_colp (v : Nat) (f : VEng → VEng) : (modV p v f).colp = p.colp := rfl
@[simp] theorem modV_bb (v : Nat) (f : VEng → VEng) : (modV p v f).bb = p.bb := rfl
@[simp] theorem modV_ledger (v : Nat) (f : VEng → VEng) : (modV p v f).ledger = p.ledger := rfl
@[simp] theorem modV_nvm (v : Nat) (f : VEng → VEng) : (modV p v f).nvm = p.nvm := rfl
@[simp] theorem modV_fuses (v : Nat) (f : VEng → VEng) : (modV p v f).fuses = p.fuses := rfl
@[simp] theorem modV_boot (v : Nat) (f : VEng → VEng) : (modV p v f).boot = p.boot := rfl
@[simp] theorem modV_stalls (v : Nat) (f : VEng → VEng) : (modV p v f).stalls = p.stalls := rfl
@[simp] theorem modV_mem (v : Nat) (f : VEng → VEng) : (modV p v f).mem = p.mem := rfl
@[simp] theorem modV_freeCtr (v : Nat) (f : VEng → VEng) : (modV p v f).freeCtr = p.freeCtr := rfl

/-! ### modP -/

@[simp] theorem modP_regs (i : Nat) (f : Part → Part) : (modP p i f).regs = p.regs := rfl
@[simp] theorem modP_mbx (i : Nat) (f : Part → Part) : (modP p i f).mbx = p.mbx := rfl
@[simp] theorem modP_mbxMem (i : Nat) (f : Part → Part) : (modP p i f).mbxMem = p.mbxMem := rfl
@[simp] theorem modP_sessions (i : Nat) (f : Part → Part) : (modP p i f).sessions = p.sessions := rfl
@[simp] theorem modP_txns (i : Nat) (f : Part → Part) : (modP p i f).txns = p.txns := rfl
@[simp] theorem modP_order (i : Nat) (f : Part → Part) : (modP p i f).order = p.order := rfl
@[simp] theorem modP_mbxNext (i : Nat) (f : Part → Part) : (modP p i f).mbxNext = p.mbxNext := rfl
@[simp] theorem modP_duties (i : Nat) (f : Part → Part) : (modP p i f).duties = p.duties := rfl
@[simp] theorem modP_coef (i : Nat) (f : Part → Part) : (modP p i f).coef = p.coef := rfl
@[simp] theorem modP_gaz (i : Nat) (f : Part → Part) : (modP p i f).gaz = p.gaz := rfl
@[simp] theorem modP_hist (i : Nat) (f : Part → Part) : (modP p i f).hist = p.hist := rfl
@[simp] theorem modP_vengs (i : Nat) (f : Part → Part) : (modP p i f).vengs = p.vengs := rfl
@[simp] theorem modP_flights (i : Nat) (f : Part → Part) : (modP p i f).flights = p.flights := rfl
@[simp] theorem modP_nextId (i : Nat) (f : Part → Part) : (modP p i f).nextId = p.nextId := rfl
@[simp] theorem modP_streams (i : Nat) (f : Part → Part) : (modP p i f).streams = p.streams := rfl
@[simp] theorem modP_queues (i : Nat) (f : Part → Part) : (modP p i f).queues = p.queues := rfl
@[simp] theorem modP_rowDir (i : Nat) (f : Part → Part) : (modP p i f).rowDir = p.rowDir := rfl
@[simp] theorem modP_rdOwner (i : Nat) (f : Part → Part) : (modP p i f).rdOwner = p.rdOwner := rfl
@[simp] theorem modP_cross (i : Nat) (f : Part → Part) : (modP p i f).cross = p.cross := rfl
@[simp] theorem modP_ringSends (i : Nat) (f : Part → Part) : (modP p i f).ringSends = p.ringSends := rfl
@[simp] theorem modP_ringRecvs (i : Nat) (f : Part → Part) : (modP p i f).ringRecvs = p.ringRecvs := rfl
@[simp] theorem modP_gslots (i : Nat) (f : Part → Part) : (modP p i f).gslots = p.gslots := rfl
@[simp] theorem modP_peers (i : Nat) (f : Part → Part) : (modP p i f).peers = p.peers := rfl
@[simp] theorem modP_colls (i : Nat) (f : Part → Part) : (modP p i f).colls = p.colls := rfl
@[simp] theorem modP_sent (i : Nat) (f : Part → Part) : (modP p i f).sent = p.sent := rfl
@[simp] theorem modP_heldRuns (i : Nat) (f : Part → Part) : (modP p i f).heldRuns = p.heldRuns := rfl
@[simp] theorem modP_heldPkts (i : Nat) (f : Part → Part) : (modP p i f).heldPkts = p.heldPkts := rfl
@[simp] theorem modP_phys (i : Nat) (f : Part → Part) : (modP p i f).phys = p.phys := rfl
@[simp] theorem modP_regions (i : Nat) (f : Part → Part) : (modP p i f).regions = p.regions := rfl
@[simp] theorem modP_pins (i : Nat) (f : Part → Part) : (modP p i f).pins = p.pins := rfl
@[simp] theorem modP_memp (i : Nat) (f : Part → Part) : (modP p i f).memp = p.memp := rfl
@[simp] theorem modP_colp (i : Nat) (f : Part → Part) : (modP p i f).colp = p.colp := rfl
@[simp] theorem modP_bb (i : Nat) (f : Part → Part) : (modP p i f).bb = p.bb := rfl
@[simp] theorem modP_ledger (i : Nat) (f : Part → Part) : (modP p i f).ledger = p.ledger := rfl
@[simp] theorem modP_nvm (i : Nat) (f : Part → Part) : (modP p i f).nvm = p.nvm := rfl
@[simp] theorem modP_fuses (i : Nat) (f : Part → Part) : (modP p i f).fuses = p.fuses := rfl
@[simp] theorem modP_boot (i : Nat) (f : Part → Part) : (modP p i f).boot = p.boot := rfl
@[simp] theorem modP_stalls (i : Nat) (f : Part → Part) : (modP p i f).stalls = p.stalls := rfl
@[simp] theorem modP_mem (i : Nat) (f : Part → Part) : (modP p i f).mem = p.mem := rfl
@[simp] theorem modP_freeCtr (i : Nat) (f : Part → Part) : (modP p i f).freeCtr = p.freeCtr := rfl

/-! ### modM -/

@[simp] theorem modM_regs (m : Nat) (f : Mbx → Mbx) : (modM p m f).regs = p.regs := rfl
@[simp] theorem modM_mbxMem (m : Nat) (f : Mbx → Mbx) : (modM p m f).mbxMem = p.mbxMem := rfl
@[simp] theorem modM_sessions (m : Nat) (f : Mbx → Mbx) : (modM p m f).sessions = p.sessions := rfl
@[simp] theorem modM_txns (m : Nat) (f : Mbx → Mbx) : (modM p m f).txns = p.txns := rfl
@[simp] theorem modM_order (m : Nat) (f : Mbx → Mbx) : (modM p m f).order = p.order := rfl
@[simp] theorem modM_mbxNext (m : Nat) (f : Mbx → Mbx) : (modM p m f).mbxNext = p.mbxNext := rfl
@[simp] theorem modM_parts (m : Nat) (f : Mbx → Mbx) : (modM p m f).parts = p.parts := rfl
@[simp] theorem modM_duties (m : Nat) (f : Mbx → Mbx) : (modM p m f).duties = p.duties := rfl
@[simp] theorem modM_coef (m : Nat) (f : Mbx → Mbx) : (modM p m f).coef = p.coef := rfl
@[simp] theorem modM_gaz (m : Nat) (f : Mbx → Mbx) : (modM p m f).gaz = p.gaz := rfl
@[simp] theorem modM_hist (m : Nat) (f : Mbx → Mbx) : (modM p m f).hist = p.hist := rfl
@[simp] theorem modM_vengs (m : Nat) (f : Mbx → Mbx) : (modM p m f).vengs = p.vengs := rfl
@[simp] theorem modM_flights (m : Nat) (f : Mbx → Mbx) : (modM p m f).flights = p.flights := rfl
@[simp] theorem modM_nextId (m : Nat) (f : Mbx → Mbx) : (modM p m f).nextId = p.nextId := rfl
@[simp] theorem modM_streams (m : Nat) (f : Mbx → Mbx) : (modM p m f).streams = p.streams := rfl
@[simp] theorem modM_queues (m : Nat) (f : Mbx → Mbx) : (modM p m f).queues = p.queues := rfl
@[simp] theorem modM_rowDir (m : Nat) (f : Mbx → Mbx) : (modM p m f).rowDir = p.rowDir := rfl
@[simp] theorem modM_rdOwner (m : Nat) (f : Mbx → Mbx) : (modM p m f).rdOwner = p.rdOwner := rfl
@[simp] theorem modM_cross (m : Nat) (f : Mbx → Mbx) : (modM p m f).cross = p.cross := rfl
@[simp] theorem modM_ringSends (m : Nat) (f : Mbx → Mbx) : (modM p m f).ringSends = p.ringSends := rfl
@[simp] theorem modM_ringRecvs (m : Nat) (f : Mbx → Mbx) : (modM p m f).ringRecvs = p.ringRecvs := rfl
@[simp] theorem modM_gslots (m : Nat) (f : Mbx → Mbx) : (modM p m f).gslots = p.gslots := rfl
@[simp] theorem modM_peers (m : Nat) (f : Mbx → Mbx) : (modM p m f).peers = p.peers := rfl
@[simp] theorem modM_colls (m : Nat) (f : Mbx → Mbx) : (modM p m f).colls = p.colls := rfl
@[simp] theorem modM_sent (m : Nat) (f : Mbx → Mbx) : (modM p m f).sent = p.sent := rfl
@[simp] theorem modM_heldRuns (m : Nat) (f : Mbx → Mbx) : (modM p m f).heldRuns = p.heldRuns := rfl
@[simp] theorem modM_heldPkts (m : Nat) (f : Mbx → Mbx) : (modM p m f).heldPkts = p.heldPkts := rfl
@[simp] theorem modM_phys (m : Nat) (f : Mbx → Mbx) : (modM p m f).phys = p.phys := rfl
@[simp] theorem modM_regions (m : Nat) (f : Mbx → Mbx) : (modM p m f).regions = p.regions := rfl
@[simp] theorem modM_pins (m : Nat) (f : Mbx → Mbx) : (modM p m f).pins = p.pins := rfl
@[simp] theorem modM_memp (m : Nat) (f : Mbx → Mbx) : (modM p m f).memp = p.memp := rfl
@[simp] theorem modM_colp (m : Nat) (f : Mbx → Mbx) : (modM p m f).colp = p.colp := rfl
@[simp] theorem modM_bb (m : Nat) (f : Mbx → Mbx) : (modM p m f).bb = p.bb := rfl
@[simp] theorem modM_ledger (m : Nat) (f : Mbx → Mbx) : (modM p m f).ledger = p.ledger := rfl
@[simp] theorem modM_nvm (m : Nat) (f : Mbx → Mbx) : (modM p m f).nvm = p.nvm := rfl
@[simp] theorem modM_fuses (m : Nat) (f : Mbx → Mbx) : (modM p m f).fuses = p.fuses := rfl
@[simp] theorem modM_boot (m : Nat) (f : Mbx → Mbx) : (modM p m f).boot = p.boot := rfl
@[simp] theorem modM_stalls (m : Nat) (f : Mbx → Mbx) : (modM p m f).stalls = p.stalls := rfl
@[simp] theorem modM_mem (m : Nat) (f : Mbx → Mbx) : (modM p m f).mem = p.mem := rfl
@[simp] theorem modM_freeCtr (m : Nat) (f : Mbx → Mbx) : (modM p m f).freeCtr = p.freeCtr := rfl

/-! ### modPhys -/

@[simp] theorem modPhys_regs (e : Nat) (f : Phys → Phys) : (modPhys p e f).regs = p.regs := rfl
@[simp] theorem modPhys_mbx (e : Nat) (f : Phys → Phys) : (modPhys p e f).mbx = p.mbx := rfl
@[simp] theorem modPhys_mbxMem (e : Nat) (f : Phys → Phys) : (modPhys p e f).mbxMem = p.mbxMem := rfl
@[simp] theorem modPhys_sessions (e : Nat) (f : Phys → Phys) : (modPhys p e f).sessions = p.sessions := rfl
@[simp] theorem modPhys_txns (e : Nat) (f : Phys → Phys) : (modPhys p e f).txns = p.txns := rfl
@[simp] theorem modPhys_order (e : Nat) (f : Phys → Phys) : (modPhys p e f).order = p.order := rfl
@[simp] theorem modPhys_mbxNext (e : Nat) (f : Phys → Phys) : (modPhys p e f).mbxNext = p.mbxNext := rfl
@[simp] theorem modPhys_parts (e : Nat) (f : Phys → Phys) : (modPhys p e f).parts = p.parts := rfl
@[simp] theorem modPhys_duties (e : Nat) (f : Phys → Phys) : (modPhys p e f).duties = p.duties := rfl
@[simp] theorem modPhys_coef (e : Nat) (f : Phys → Phys) : (modPhys p e f).coef = p.coef := rfl
@[simp] theorem modPhys_gaz (e : Nat) (f : Phys → Phys) : (modPhys p e f).gaz = p.gaz := rfl
@[simp] theorem modPhys_hist (e : Nat) (f : Phys → Phys) : (modPhys p e f).hist = p.hist := rfl
@[simp] theorem modPhys_vengs (e : Nat) (f : Phys → Phys) : (modPhys p e f).vengs = p.vengs := rfl
@[simp] theorem modPhys_flights (e : Nat) (f : Phys → Phys) : (modPhys p e f).flights = p.flights := rfl
@[simp] theorem modPhys_nextId (e : Nat) (f : Phys → Phys) : (modPhys p e f).nextId = p.nextId := rfl
@[simp] theorem modPhys_streams (e : Nat) (f : Phys → Phys) : (modPhys p e f).streams = p.streams := rfl
@[simp] theorem modPhys_queues (e : Nat) (f : Phys → Phys) : (modPhys p e f).queues = p.queues := rfl
@[simp] theorem modPhys_rowDir (e : Nat) (f : Phys → Phys) : (modPhys p e f).rowDir = p.rowDir := rfl
@[simp] theorem modPhys_rdOwner (e : Nat) (f : Phys → Phys) : (modPhys p e f).rdOwner = p.rdOwner := rfl
@[simp] theorem modPhys_cross (e : Nat) (f : Phys → Phys) : (modPhys p e f).cross = p.cross := rfl
@[simp] theorem modPhys_ringSends (e : Nat) (f : Phys → Phys) : (modPhys p e f).ringSends = p.ringSends := rfl
@[simp] theorem modPhys_ringRecvs (e : Nat) (f : Phys → Phys) : (modPhys p e f).ringRecvs = p.ringRecvs := rfl
@[simp] theorem modPhys_gslots (e : Nat) (f : Phys → Phys) : (modPhys p e f).gslots = p.gslots := rfl
@[simp] theorem modPhys_peers (e : Nat) (f : Phys → Phys) : (modPhys p e f).peers = p.peers := rfl
@[simp] theorem modPhys_colls (e : Nat) (f : Phys → Phys) : (modPhys p e f).colls = p.colls := rfl
@[simp] theorem modPhys_sent (e : Nat) (f : Phys → Phys) : (modPhys p e f).sent = p.sent := rfl
@[simp] theorem modPhys_heldRuns (e : Nat) (f : Phys → Phys) : (modPhys p e f).heldRuns = p.heldRuns := rfl
@[simp] theorem modPhys_heldPkts (e : Nat) (f : Phys → Phys) : (modPhys p e f).heldPkts = p.heldPkts := rfl
@[simp] theorem modPhys_regions (e : Nat) (f : Phys → Phys) : (modPhys p e f).regions = p.regions := rfl
@[simp] theorem modPhys_pins (e : Nat) (f : Phys → Phys) : (modPhys p e f).pins = p.pins := rfl
@[simp] theorem modPhys_memp (e : Nat) (f : Phys → Phys) : (modPhys p e f).memp = p.memp := rfl
@[simp] theorem modPhys_colp (e : Nat) (f : Phys → Phys) : (modPhys p e f).colp = p.colp := rfl
@[simp] theorem modPhys_bb (e : Nat) (f : Phys → Phys) : (modPhys p e f).bb = p.bb := rfl
@[simp] theorem modPhys_ledger (e : Nat) (f : Phys → Phys) : (modPhys p e f).ledger = p.ledger := rfl
@[simp] theorem modPhys_nvm (e : Nat) (f : Phys → Phys) : (modPhys p e f).nvm = p.nvm := rfl
@[simp] theorem modPhys_fuses (e : Nat) (f : Phys → Phys) : (modPhys p e f).fuses = p.fuses := rfl
@[simp] theorem modPhys_boot (e : Nat) (f : Phys → Phys) : (modPhys p e f).boot = p.boot := rfl
@[simp] theorem modPhys_stalls (e : Nat) (f : Phys → Phys) : (modPhys p e f).stalls = p.stalls := rfl
@[simp] theorem modPhys_mem (e : Nat) (f : Phys → Phys) : (modPhys p e f).mem = p.mem := rfl
@[simp] theorem modPhys_freeCtr (e : Nat) (f : Phys → Phys) : (modPhys p e f).freeCtr = p.freeCtr := rfl

/-! ### modRg -/

@[simp] theorem modRg_regs (r : Nat) (f : Region → Region) : (modRg p r f).regs = p.regs := rfl
@[simp] theorem modRg_mbx (r : Nat) (f : Region → Region) : (modRg p r f).mbx = p.mbx := rfl
@[simp] theorem modRg_mbxMem (r : Nat) (f : Region → Region) : (modRg p r f).mbxMem = p.mbxMem := rfl
@[simp] theorem modRg_sessions (r : Nat) (f : Region → Region) : (modRg p r f).sessions = p.sessions := rfl
@[simp] theorem modRg_txns (r : Nat) (f : Region → Region) : (modRg p r f).txns = p.txns := rfl
@[simp] theorem modRg_order (r : Nat) (f : Region → Region) : (modRg p r f).order = p.order := rfl
@[simp] theorem modRg_mbxNext (r : Nat) (f : Region → Region) : (modRg p r f).mbxNext = p.mbxNext := rfl
@[simp] theorem modRg_parts (r : Nat) (f : Region → Region) : (modRg p r f).parts = p.parts := rfl
@[simp] theorem modRg_duties (r : Nat) (f : Region → Region) : (modRg p r f).duties = p.duties := rfl
@[simp] theorem modRg_coef (r : Nat) (f : Region → Region) : (modRg p r f).coef = p.coef := rfl
@[simp] theorem modRg_gaz (r : Nat) (f : Region → Region) : (modRg p r f).gaz = p.gaz := rfl
@[simp] theorem modRg_hist (r : Nat) (f : Region → Region) : (modRg p r f).hist = p.hist := rfl
@[simp] theorem modRg_vengs (r : Nat) (f : Region → Region) : (modRg p r f).vengs = p.vengs := rfl
@[simp] theorem modRg_flights (r : Nat) (f : Region → Region) : (modRg p r f).flights = p.flights := rfl
@[simp] theorem modRg_nextId (r : Nat) (f : Region → Region) : (modRg p r f).nextId = p.nextId := rfl
@[simp] theorem modRg_streams (r : Nat) (f : Region → Region) : (modRg p r f).streams = p.streams := rfl
@[simp] theorem modRg_queues (r : Nat) (f : Region → Region) : (modRg p r f).queues = p.queues := rfl
@[simp] theorem modRg_rowDir (r : Nat) (f : Region → Region) : (modRg p r f).rowDir = p.rowDir := rfl
@[simp] theorem modRg_rdOwner (r : Nat) (f : Region → Region) : (modRg p r f).rdOwner = p.rdOwner := rfl
@[simp] theorem modRg_cross (r : Nat) (f : Region → Region) : (modRg p r f).cross = p.cross := rfl
@[simp] theorem modRg_ringSends (r : Nat) (f : Region → Region) : (modRg p r f).ringSends = p.ringSends := rfl
@[simp] theorem modRg_ringRecvs (r : Nat) (f : Region → Region) : (modRg p r f).ringRecvs = p.ringRecvs := rfl
@[simp] theorem modRg_gslots (r : Nat) (f : Region → Region) : (modRg p r f).gslots = p.gslots := rfl
@[simp] theorem modRg_peers (r : Nat) (f : Region → Region) : (modRg p r f).peers = p.peers := rfl
@[simp] theorem modRg_colls (r : Nat) (f : Region → Region) : (modRg p r f).colls = p.colls := rfl
@[simp] theorem modRg_sent (r : Nat) (f : Region → Region) : (modRg p r f).sent = p.sent := rfl
@[simp] theorem modRg_heldRuns (r : Nat) (f : Region → Region) : (modRg p r f).heldRuns = p.heldRuns := rfl
@[simp] theorem modRg_heldPkts (r : Nat) (f : Region → Region) : (modRg p r f).heldPkts = p.heldPkts := rfl
@[simp] theorem modRg_phys (r : Nat) (f : Region → Region) : (modRg p r f).phys = p.phys := rfl
@[simp] theorem modRg_pins (r : Nat) (f : Region → Region) : (modRg p r f).pins = p.pins := rfl
@[simp] theorem modRg_memp (r : Nat) (f : Region → Region) : (modRg p r f).memp = p.memp := rfl
@[simp] theorem modRg_colp (r : Nat) (f : Region → Region) : (modRg p r f).colp = p.colp := rfl
@[simp] theorem modRg_bb (r : Nat) (f : Region → Region) : (modRg p r f).bb = p.bb := rfl
@[simp] theorem modRg_ledger (r : Nat) (f : Region → Region) : (modRg p r f).ledger = p.ledger := rfl
@[simp] theorem modRg_nvm (r : Nat) (f : Region → Region) : (modRg p r f).nvm = p.nvm := rfl
@[simp] theorem modRg_fuses (r : Nat) (f : Region → Region) : (modRg p r f).fuses = p.fuses := rfl
@[simp] theorem modRg_boot (r : Nat) (f : Region → Region) : (modRg p r f).boot = p.boot := rfl
@[simp] theorem modRg_stalls (r : Nat) (f : Region → Region) : (modRg p r f).stalls = p.stalls := rfl
@[simp] theorem modRg_mem (r : Nat) (f : Region → Region) : (modRg p r f).mem = p.mem := rfl
@[simp] theorem modRg_freeCtr (r : Nat) (f : Region → Region) : (modRg p r f).freeCtr = p.freeCtr := rfl

/-! ### setT -/

@[simp] theorem setT_regs (v s : Nat) (t : Task) : (setT p v s t).regs = p.regs := rfl
@[simp] theorem setT_mbx (v s : Nat) (t : Task) : (setT p v s t).mbx = p.mbx := rfl
@[simp] theorem setT_mbxMem (v s : Nat) (t : Task) : (setT p v s t).mbxMem = p.mbxMem := rfl
@[simp] theorem setT_sessions (v s : Nat) (t : Task) : (setT p v s t).sessions = p.sessions := rfl
@[simp] theorem setT_txns (v s : Nat) (t : Task) : (setT p v s t).txns = p.txns := rfl
@[simp] theorem setT_order (v s : Nat) (t : Task) : (setT p v s t).order = p.order := rfl
@[simp] theorem setT_mbxNext (v s : Nat) (t : Task) : (setT p v s t).mbxNext = p.mbxNext := rfl
@[simp] theorem setT_parts (v s : Nat) (t : Task) : (setT p v s t).parts = p.parts := rfl
@[simp] theorem setT_duties (v s : Nat) (t : Task) : (setT p v s t).duties = p.duties := rfl
@[simp] theorem setT_coef (v s : Nat) (t : Task) : (setT p v s t).coef = p.coef := rfl
@[simp] theorem setT_gaz (v s : Nat) (t : Task) : (setT p v s t).gaz = p.gaz := rfl
@[simp] theorem setT_hist (v s : Nat) (t : Task) : (setT p v s t).hist = p.hist := rfl
@[simp] theorem setT_flights (v s : Nat) (t : Task) : (setT p v s t).flights = p.flights := rfl
@[simp] theorem setT_nextId (v s : Nat) (t : Task) : (setT p v s t).nextId = p.nextId := rfl
@[simp] theorem setT_streams (v s : Nat) (t : Task) : (setT p v s t).streams = p.streams := rfl
@[simp] theorem setT_queues (v s : Nat) (t : Task) : (setT p v s t).queues = p.queues := rfl
@[simp] theorem setT_rowDir (v s : Nat) (t : Task) : (setT p v s t).rowDir = p.rowDir := rfl
@[simp] theorem setT_rdOwner (v s : Nat) (t : Task) : (setT p v s t).rdOwner = p.rdOwner := rfl
@[simp] theorem setT_cross (v s : Nat) (t : Task) : (setT p v s t).cross = p.cross := rfl
@[simp] theorem setT_ringSends (v s : Nat) (t : Task) : (setT p v s t).ringSends = p.ringSends := rfl
@[simp] theorem setT_ringRecvs (v s : Nat) (t : Task) : (setT p v s t).ringRecvs = p.ringRecvs := rfl
@[simp] theorem setT_gslots (v s : Nat) (t : Task) : (setT p v s t).gslots = p.gslots := rfl
@[simp] theorem setT_peers (v s : Nat) (t : Task) : (setT p v s t).peers = p.peers := rfl
@[simp] theorem setT_colls (v s : Nat) (t : Task) : (setT p v s t).colls = p.colls := rfl
@[simp] theorem setT_sent (v s : Nat) (t : Task) : (setT p v s t).sent = p.sent := rfl
@[simp] theorem setT_heldRuns (v s : Nat) (t : Task) : (setT p v s t).heldRuns = p.heldRuns := rfl
@[simp] theorem setT_heldPkts (v s : Nat) (t : Task) : (setT p v s t).heldPkts = p.heldPkts := rfl
@[simp] theorem setT_phys (v s : Nat) (t : Task) : (setT p v s t).phys = p.phys := rfl
@[simp] theorem setT_regions (v s : Nat) (t : Task) : (setT p v s t).regions = p.regions := rfl
@[simp] theorem setT_pins (v s : Nat) (t : Task) : (setT p v s t).pins = p.pins := rfl
@[simp] theorem setT_memp (v s : Nat) (t : Task) : (setT p v s t).memp = p.memp := rfl
@[simp] theorem setT_colp (v s : Nat) (t : Task) : (setT p v s t).colp = p.colp := rfl
@[simp] theorem setT_bb (v s : Nat) (t : Task) : (setT p v s t).bb = p.bb := rfl
@[simp] theorem setT_ledger (v s : Nat) (t : Task) : (setT p v s t).ledger = p.ledger := rfl
@[simp] theorem setT_nvm (v s : Nat) (t : Task) : (setT p v s t).nvm = p.nvm := rfl
@[simp] theorem setT_fuses (v s : Nat) (t : Task) : (setT p v s t).fuses = p.fuses := rfl
@[simp] theorem setT_boot (v s : Nat) (t : Task) : (setT p v s t).boot = p.boot := rfl
@[simp] theorem setT_stalls (v s : Nat) (t : Task) : (setT p v s t).stalls = p.stalls := rfl
@[simp] theorem setT_mem (v s : Nat) (t : Task) : (setT p v s t).mem = p.mem := rfl
@[simp] theorem setT_freeCtr (v s : Nat) (t : Task) : (setT p v s t).freeCtr = p.freeCtr := rfl

/-! ### modT -/

@[simp] theorem modT_regs (v s : Nat) (f : Task → Task) : (modT p v s f).regs = p.regs := rfl
@[simp] theorem modT_mbx (v s : Nat) (f : Task → Task) : (modT p v s f).mbx = p.mbx := rfl
@[simp] theorem modT_mbxMem (v s : Nat) (f : Task → Task) : (modT p v s f).mbxMem = p.mbxMem := rfl
@[simp] theorem modT_sessions (v s : Nat) (f : Task → Task) : (modT p v s f).sessions = p.sessions := rfl
@[simp] theorem modT_txns (v s : Nat) (f : Task → Task) : (modT p v s f).txns = p.txns := rfl
@[simp] theorem modT_order (v s : Nat) (f : Task → Task) : (modT p v s f).order = p.order := rfl
@[simp] theorem modT_mbxNext (v s : Nat) (f : Task → Task) : (modT p v s f).mbxNext = p.mbxNext := rfl
@[simp] theorem modT_parts (v s : Nat) (f : Task → Task) : (modT p v s f).parts = p.parts := rfl
@[simp] theorem modT_duties (v s : Nat) (f : Task → Task) : (modT p v s f).duties = p.duties := rfl
@[simp] theorem modT_coef (v s : Nat) (f : Task → Task) : (modT p v s f).coef = p.coef := rfl
@[simp] theorem modT_gaz (v s : Nat) (f : Task → Task) : (modT p v s f).gaz = p.gaz := rfl
@[simp] theorem modT_hist (v s : Nat) (f : Task → Task) : (modT p v s f).hist = p.hist := rfl
@[simp] theorem modT_flights (v s : Nat) (f : Task → Task) : (modT p v s f).flights = p.flights := rfl
@[simp] theorem modT_nextId (v s : Nat) (f : Task → Task) : (modT p v s f).nextId = p.nextId := rfl
@[simp] theorem modT_streams (v s : Nat) (f : Task → Task) : (modT p v s f).streams = p.streams := rfl
@[simp] theorem modT_queues (v s : Nat) (f : Task → Task) : (modT p v s f).queues = p.queues := rfl
@[simp] theorem modT_rowDir (v s : Nat) (f : Task → Task) : (modT p v s f).rowDir = p.rowDir := rfl
@[simp] theorem modT_rdOwner (v s : Nat) (f : Task → Task) : (modT p v s f).rdOwner = p.rdOwner := rfl
@[simp] theorem modT_cross (v s : Nat) (f : Task → Task) : (modT p v s f).cross = p.cross := rfl
@[simp] theorem modT_ringSends (v s : Nat) (f : Task → Task) : (modT p v s f).ringSends = p.ringSends := rfl
@[simp] theorem modT_ringRecvs (v s : Nat) (f : Task → Task) : (modT p v s f).ringRecvs = p.ringRecvs := rfl
@[simp] theorem modT_gslots (v s : Nat) (f : Task → Task) : (modT p v s f).gslots = p.gslots := rfl
@[simp] theorem modT_peers (v s : Nat) (f : Task → Task) : (modT p v s f).peers = p.peers := rfl
@[simp] theorem modT_colls (v s : Nat) (f : Task → Task) : (modT p v s f).colls = p.colls := rfl
@[simp] theorem modT_sent (v s : Nat) (f : Task → Task) : (modT p v s f).sent = p.sent := rfl
@[simp] theorem modT_heldRuns (v s : Nat) (f : Task → Task) : (modT p v s f).heldRuns = p.heldRuns := rfl
@[simp] theorem modT_heldPkts (v s : Nat) (f : Task → Task) : (modT p v s f).heldPkts = p.heldPkts := rfl
@[simp] theorem modT_phys (v s : Nat) (f : Task → Task) : (modT p v s f).phys = p.phys := rfl
@[simp] theorem modT_regions (v s : Nat) (f : Task → Task) : (modT p v s f).regions = p.regions := rfl
@[simp] theorem modT_pins (v s : Nat) (f : Task → Task) : (modT p v s f).pins = p.pins := rfl
@[simp] theorem modT_memp (v s : Nat) (f : Task → Task) : (modT p v s f).memp = p.memp := rfl
@[simp] theorem modT_colp (v s : Nat) (f : Task → Task) : (modT p v s f).colp = p.colp := rfl
@[simp] theorem modT_bb (v s : Nat) (f : Task → Task) : (modT p v s f).bb = p.bb := rfl
@[simp] theorem modT_ledger (v s : Nat) (f : Task → Task) : (modT p v s f).ledger = p.ledger := rfl
@[simp] theorem modT_nvm (v s : Nat) (f : Task → Task) : (modT p v s f).nvm = p.nvm := rfl
@[simp] theorem modT_fuses (v s : Nat) (f : Task → Task) : (modT p v s f).fuses = p.fuses := rfl
@[simp] theorem modT_boot (v s : Nat) (f : Task → Task) : (modT p v s f).boot = p.boot := rfl
@[simp] theorem modT_stalls (v s : Nat) (f : Task → Task) : (modT p v s f).stalls = p.stalls := rfl
@[simp] theorem modT_mem (v s : Nat) (f : Task → Task) : (modT p v s f).mem = p.mem := rfl
@[simp] theorem modT_freeCtr (v s : Nat) (f : Task → Task) : (modT p v s f).freeCtr = p.freeCtr := rfl

/-! ### modEp -/

@[simp] theorem modEp_regs (i n : Nat) (f : EpRec → EpRec) : (modEp p i n f).regs = p.regs := rfl
@[simp] theorem modEp_mbx (i n : Nat) (f : EpRec → EpRec) : (modEp p i n f).mbx = p.mbx := rfl
@[simp] theorem modEp_mbxMem (i n : Nat) (f : EpRec → EpRec) : (modEp p i n f).mbxMem = p.mbxMem := rfl
@[simp] theorem modEp_sessions (i n : Nat) (f : EpRec → EpRec) : (modEp p i n f).sessions = p.sessions := rfl
@[simp] theorem modEp_txns (i n : Nat) (f : EpRec → EpRec) : (modEp p i n f).txns = p.txns := rfl
@[simp] theorem modEp_order (i n : Nat) (f : EpRec → EpRec) : (modEp p i n f).order = p.order := rfl
@[simp] theorem modEp_mbxNext (i n : Nat) (f : EpRec → EpRec) : (modEp p i n f).mbxNext = p.mbxNext := rfl
@[simp] theorem modEp_duties (i n : Nat) (f : EpRec → EpRec) : (modEp p i n f).duties = p.duties := rfl
@[simp] theorem modEp_coef (i n : Nat) (f : EpRec → EpRec) : (modEp p i n f).coef = p.coef := rfl
@[simp] theorem modEp_gaz (i n : Nat) (f : EpRec → EpRec) : (modEp p i n f).gaz = p.gaz := rfl
@[simp] theorem modEp_hist (i n : Nat) (f : EpRec → EpRec) : (modEp p i n f).hist = p.hist := rfl
@[simp] theorem modEp_vengs (i n : Nat) (f : EpRec → EpRec) : (modEp p i n f).vengs = p.vengs := rfl
@[simp] theorem modEp_flights (i n : Nat) (f : EpRec → EpRec) : (modEp p i n f).flights = p.flights := rfl
@[simp] theorem modEp_nextId (i n : Nat) (f : EpRec → EpRec) : (modEp p i n f).nextId = p.nextId := rfl
@[simp] theorem modEp_streams (i n : Nat) (f : EpRec → EpRec) : (modEp p i n f).streams = p.streams := rfl
@[simp] theorem modEp_queues (i n : Nat) (f : EpRec → EpRec) : (modEp p i n f).queues = p.queues := rfl
@[simp] theorem modEp_rowDir (i n : Nat) (f : EpRec → EpRec) : (modEp p i n f).rowDir = p.rowDir := rfl
@[simp] theorem modEp_rdOwner (i n : Nat) (f : EpRec → EpRec) : (modEp p i n f).rdOwner = p.rdOwner := rfl
@[simp] theorem modEp_cross (i n : Nat) (f : EpRec → EpRec) : (modEp p i n f).cross = p.cross := rfl
@[simp] theorem modEp_ringSends (i n : Nat) (f : EpRec → EpRec) : (modEp p i n f).ringSends = p.ringSends := rfl
@[simp] theorem modEp_ringRecvs (i n : Nat) (f : EpRec → EpRec) : (modEp p i n f).ringRecvs = p.ringRecvs := rfl
@[simp] theorem modEp_gslots (i n : Nat) (f : EpRec → EpRec) : (modEp p i n f).gslots = p.gslots := rfl
@[simp] theorem modEp_peers (i n : Nat) (f : EpRec → EpRec) : (modEp p i n f).peers = p.peers := rfl
@[simp] theorem modEp_colls (i n : Nat) (f : EpRec → EpRec) : (modEp p i n f).colls = p.colls := rfl
@[simp] theorem modEp_sent (i n : Nat) (f : EpRec → EpRec) : (modEp p i n f).sent = p.sent := rfl
@[simp] theorem modEp_heldRuns (i n : Nat) (f : EpRec → EpRec) : (modEp p i n f).heldRuns = p.heldRuns := rfl
@[simp] theorem modEp_heldPkts (i n : Nat) (f : EpRec → EpRec) : (modEp p i n f).heldPkts = p.heldPkts := rfl
@[simp] theorem modEp_phys (i n : Nat) (f : EpRec → EpRec) : (modEp p i n f).phys = p.phys := rfl
@[simp] theorem modEp_regions (i n : Nat) (f : EpRec → EpRec) : (modEp p i n f).regions = p.regions := rfl
@[simp] theorem modEp_pins (i n : Nat) (f : EpRec → EpRec) : (modEp p i n f).pins = p.pins := rfl
@[simp] theorem modEp_memp (i n : Nat) (f : EpRec → EpRec) : (modEp p i n f).memp = p.memp := rfl
@[simp] theorem modEp_colp (i n : Nat) (f : EpRec → EpRec) : (modEp p i n f).colp = p.colp := rfl
@[simp] theorem modEp_bb (i n : Nat) (f : EpRec → EpRec) : (modEp p i n f).bb = p.bb := rfl
@[simp] theorem modEp_ledger (i n : Nat) (f : EpRec → EpRec) : (modEp p i n f).ledger = p.ledger := rfl
@[simp] theorem modEp_nvm (i n : Nat) (f : EpRec → EpRec) : (modEp p i n f).nvm = p.nvm := rfl
@[simp] theorem modEp_fuses (i n : Nat) (f : EpRec → EpRec) : (modEp p i n f).fuses = p.fuses := rfl
@[simp] theorem modEp_boot (i n : Nat) (f : EpRec → EpRec) : (modEp p i n f).boot = p.boot := rfl
@[simp] theorem modEp_stalls (i n : Nat) (f : EpRec → EpRec) : (modEp p i n f).stalls = p.stalls := rfl
@[simp] theorem modEp_mem (i n : Nat) (f : EpRec → EpRec) : (modEp p i n f).mem = p.mem := rfl
@[simp] theorem modEp_freeCtr (i n : Nat) (f : EpRec → EpRec) : (modEp p i n f).freeCtr = p.freeCtr := rfl

/-! ### stallV -/

@[simp] theorem stallV_regs (v i n : Nat) : (stallV p v i n).regs = p.regs := rfl
@[simp] theorem stallV_mbx (v i n : Nat) : (stallV p v i n).mbx = p.mbx := rfl
@[simp] theorem stallV_mbxMem (v i n : Nat) : (stallV p v i n).mbxMem = p.mbxMem := rfl
@[simp] theorem stallV_sessions (v i n : Nat) : (stallV p v i n).sessions = p.sessions := rfl
@[simp] theorem stallV_txns (v i n : Nat) : (stallV p v i n).txns = p.txns := rfl
@[simp] theorem stallV_order (v i n : Nat) : (stallV p v i n).order = p.order := rfl
@[simp] theorem stallV_mbxNext (v i n : Nat) : (stallV p v i n).mbxNext = p.mbxNext := rfl
@[simp] theorem stallV_parts (v i n : Nat) : (stallV p v i n).parts = p.parts := rfl
@[simp] theorem stallV_duties (v i n : Nat) : (stallV p v i n).duties = p.duties := rfl
@[simp] theorem stallV_coef (v i n : Nat) : (stallV p v i n).coef = p.coef := rfl
@[simp] theorem stallV_gaz (v i n : Nat) : (stallV p v i n).gaz = p.gaz := rfl
@[simp] theorem stallV_hist (v i n : Nat) : (stallV p v i n).hist = p.hist := rfl
@[simp] theorem stallV_flights (v i n : Nat) : (stallV p v i n).flights = p.flights := rfl
@[simp] theorem stallV_nextId (v i n : Nat) : (stallV p v i n).nextId = p.nextId := rfl
@[simp] theorem stallV_streams (v i n : Nat) : (stallV p v i n).streams = p.streams := rfl
@[simp] theorem stallV_queues (v i n : Nat) : (stallV p v i n).queues = p.queues := rfl
@[simp] theorem stallV_rowDir (v i n : Nat) : (stallV p v i n).rowDir = p.rowDir := rfl
@[simp] theorem stallV_rdOwner (v i n : Nat) : (stallV p v i n).rdOwner = p.rdOwner := rfl
@[simp] theorem stallV_cross (v i n : Nat) : (stallV p v i n).cross = p.cross := rfl
@[simp] theorem stallV_ringSends (v i n : Nat) : (stallV p v i n).ringSends = p.ringSends := rfl
@[simp] theorem stallV_ringRecvs (v i n : Nat) : (stallV p v i n).ringRecvs = p.ringRecvs := rfl
@[simp] theorem stallV_gslots (v i n : Nat) : (stallV p v i n).gslots = p.gslots := rfl
@[simp] theorem stallV_peers (v i n : Nat) : (stallV p v i n).peers = p.peers := rfl
@[simp] theorem stallV_colls (v i n : Nat) : (stallV p v i n).colls = p.colls := rfl
@[simp] theorem stallV_sent (v i n : Nat) : (stallV p v i n).sent = p.sent := rfl
@[simp] theorem stallV_heldRuns (v i n : Nat) : (stallV p v i n).heldRuns = p.heldRuns := rfl
@[simp] theorem stallV_heldPkts (v i n : Nat) : (stallV p v i n).heldPkts = p.heldPkts := rfl
@[simp] theorem stallV_phys (v i n : Nat) : (stallV p v i n).phys = p.phys := rfl
@[simp] theorem stallV_regions (v i n : Nat) : (stallV p v i n).regions = p.regions := rfl
@[simp] theorem stallV_pins (v i n : Nat) : (stallV p v i n).pins = p.pins := rfl
@[simp] theorem stallV_memp (v i n : Nat) : (stallV p v i n).memp = p.memp := rfl
@[simp] theorem stallV_colp (v i n : Nat) : (stallV p v i n).colp = p.colp := rfl
@[simp] theorem stallV_bb (v i n : Nat) : (stallV p v i n).bb = p.bb := rfl
@[simp] theorem stallV_ledger (v i n : Nat) : (stallV p v i n).ledger = p.ledger := rfl
@[simp] theorem stallV_nvm (v i n : Nat) : (stallV p v i n).nvm = p.nvm := rfl
@[simp] theorem stallV_fuses (v i n : Nat) : (stallV p v i n).fuses = p.fuses := rfl
@[simp] theorem stallV_boot (v i n : Nat) : (stallV p v i n).boot = p.boot := rfl
@[simp] theorem stallV_stalls (v i n : Nat) : (stallV p v i n).stalls = p.stalls := rfl
@[simp] theorem stallV_mem (v i n : Nat) : (stallV p v i n).mem = p.mem := rfl
@[simp] theorem stallV_freeCtr (v i n : Nat) : (stallV p v i n).freeCtr = p.freeCtr := rfl

/-! ### stallR -/

@[simp] theorem stallR_regs (r i n : Nat) : (stallR p r i n).regs = p.regs := rfl
@[simp] theorem stallR_mbx (r i n : Nat) : (stallR p r i n).mbx = p.mbx := rfl
@[simp] theorem stallR_mbxMem (r i n : Nat) : (stallR p r i n).mbxMem = p.mbxMem := rfl
@[simp] theorem stallR_sessions (r i n : Nat) : (stallR p r i n).sessions = p.sessions := rfl
@[simp] theorem stallR_txns (r i n : Nat) : (stallR p r i n).txns = p.txns := rfl
@[simp] theorem stallR_order (r i n : Nat) : (stallR p r i n).order = p.order := rfl
@[simp] theorem stallR_mbxNext (r i n : Nat) : (stallR p r i n).mbxNext = p.mbxNext := rfl
@[simp] theorem stallR_parts (r i n : Nat) : (stallR p r i n).parts = p.parts := rfl
@[simp] theorem stallR_duties (r i n : Nat) : (stallR p r i n).duties = p.duties := rfl
@[simp] theorem stallR_coef (r i n : Nat) : (stallR p r i n).coef = p.coef := rfl
@[simp] theorem stallR_gaz (r i n : Nat) : (stallR p r i n).gaz = p.gaz := rfl
@[simp] theorem stallR_hist (r i n : Nat) : (stallR p r i n).hist = p.hist := rfl
@[simp] theorem stallR_vengs (r i n : Nat) : (stallR p r i n).vengs = p.vengs := rfl
@[simp] theorem stallR_flights (r i n : Nat) : (stallR p r i n).flights = p.flights := rfl
@[simp] theorem stallR_nextId (r i n : Nat) : (stallR p r i n).nextId = p.nextId := rfl
@[simp] theorem stallR_streams (r i n : Nat) : (stallR p r i n).streams = p.streams := rfl
@[simp] theorem stallR_queues (r i n : Nat) : (stallR p r i n).queues = p.queues := rfl
@[simp] theorem stallR_rowDir (r i n : Nat) : (stallR p r i n).rowDir = p.rowDir := rfl
@[simp] theorem stallR_rdOwner (r i n : Nat) : (stallR p r i n).rdOwner = p.rdOwner := rfl
@[simp] theorem stallR_cross (r i n : Nat) : (stallR p r i n).cross = p.cross := rfl
@[simp] theorem stallR_ringSends (r i n : Nat) : (stallR p r i n).ringSends = p.ringSends := rfl
@[simp] theorem stallR_ringRecvs (r i n : Nat) : (stallR p r i n).ringRecvs = p.ringRecvs := rfl
@[simp] theorem stallR_gslots (r i n : Nat) : (stallR p r i n).gslots = p.gslots := rfl
@[simp] theorem stallR_peers (r i n : Nat) : (stallR p r i n).peers = p.peers := rfl
@[simp] theorem stallR_colls (r i n : Nat) : (stallR p r i n).colls = p.colls := rfl
@[simp] theorem stallR_sent (r i n : Nat) : (stallR p r i n).sent = p.sent := rfl
@[simp] theorem stallR_heldRuns (r i n : Nat) : (stallR p r i n).heldRuns = p.heldRuns := rfl
@[simp] theorem stallR_heldPkts (r i n : Nat) : (stallR p r i n).heldPkts = p.heldPkts := rfl
@[simp] theorem stallR_phys (r i n : Nat) : (stallR p r i n).phys = p.phys := rfl
@[simp] theorem stallR_pins (r i n : Nat) : (stallR p r i n).pins = p.pins := rfl
@[simp] theorem stallR_memp (r i n : Nat) : (stallR p r i n).memp = p.memp := rfl
@[simp] theorem stallR_colp (r i n : Nat) : (stallR p r i n).colp = p.colp := rfl
@[simp] theorem stallR_bb (r i n : Nat) : (stallR p r i n).bb = p.bb := rfl
@[simp] theorem stallR_ledger (r i n : Nat) : (stallR p r i n).ledger = p.ledger := rfl
@[simp] theorem stallR_nvm (r i n : Nat) : (stallR p r i n).nvm = p.nvm := rfl
@[simp] theorem stallR_fuses (r i n : Nat) : (stallR p r i n).fuses = p.fuses := rfl
@[simp] theorem stallR_boot (r i n : Nat) : (stallR p r i n).boot = p.boot := rfl
@[simp] theorem stallR_stalls (r i n : Nat) : (stallR p r i n).stalls = p.stalls := rfl
@[simp] theorem stallR_mem (r i n : Nat) : (stallR p r i n).mem = p.mem := rfl
@[simp] theorem stallR_freeCtr (r i n : Nat) : (stallR p r i n).freeCtr = p.freeCtr := rfl

/-! ### stallP -/

@[simp] theorem stallP_regs (i n : Nat) : (stallP p i n).regs = p.regs := rfl
@[simp] theorem stallP_mbx (i n : Nat) : (stallP p i n).mbx = p.mbx := rfl
@[simp] theorem stallP_mbxMem (i n : Nat) : (stallP p i n).mbxMem = p.mbxMem := rfl
@[simp] theorem stallP_sessions (i n : Nat) : (stallP p i n).sessions = p.sessions := rfl
@[simp] theorem stallP_txns (i n : Nat) : (stallP p i n).txns = p.txns := rfl
@[simp] theorem stallP_order (i n : Nat) : (stallP p i n).order = p.order := rfl
@[simp] theorem stallP_mbxNext (i n : Nat) : (stallP p i n).mbxNext = p.mbxNext := rfl
@[simp] theorem stallP_parts (i n : Nat) : (stallP p i n).parts = p.parts := rfl
@[simp] theorem stallP_duties (i n : Nat) : (stallP p i n).duties = p.duties := rfl
@[simp] theorem stallP_coef (i n : Nat) : (stallP p i n).coef = p.coef := rfl
@[simp] theorem stallP_gaz (i n : Nat) : (stallP p i n).gaz = p.gaz := rfl
@[simp] theorem stallP_hist (i n : Nat) : (stallP p i n).hist = p.hist := rfl
@[simp] theorem stallP_vengs (i n : Nat) : (stallP p i n).vengs = p.vengs := rfl
@[simp] theorem stallP_flights (i n : Nat) : (stallP p i n).flights = p.flights := rfl
@[simp] theorem stallP_nextId (i n : Nat) : (stallP p i n).nextId = p.nextId := rfl
@[simp] theorem stallP_streams (i n : Nat) : (stallP p i n).streams = p.streams := rfl
@[simp] theorem stallP_queues (i n : Nat) : (stallP p i n).queues = p.queues := rfl
@[simp] theorem stallP_rowDir (i n : Nat) : (stallP p i n).rowDir = p.rowDir := rfl
@[simp] theorem stallP_rdOwner (i n : Nat) : (stallP p i n).rdOwner = p.rdOwner := rfl
@[simp] theorem stallP_cross (i n : Nat) : (stallP p i n).cross = p.cross := rfl
@[simp] theorem stallP_ringSends (i n : Nat) : (stallP p i n).ringSends = p.ringSends := rfl
@[simp] theorem stallP_ringRecvs (i n : Nat) : (stallP p i n).ringRecvs = p.ringRecvs := rfl
@[simp] theorem stallP_gslots (i n : Nat) : (stallP p i n).gslots = p.gslots := rfl
@[simp] theorem stallP_peers (i n : Nat) : (stallP p i n).peers = p.peers := rfl
@[simp] theorem stallP_colls (i n : Nat) : (stallP p i n).colls = p.colls := rfl
@[simp] theorem stallP_sent (i n : Nat) : (stallP p i n).sent = p.sent := rfl
@[simp] theorem stallP_heldRuns (i n : Nat) : (stallP p i n).heldRuns = p.heldRuns := rfl
@[simp] theorem stallP_heldPkts (i n : Nat) : (stallP p i n).heldPkts = p.heldPkts := rfl
@[simp] theorem stallP_phys (i n : Nat) : (stallP p i n).phys = p.phys := rfl
@[simp] theorem stallP_regions (i n : Nat) : (stallP p i n).regions = p.regions := rfl
@[simp] theorem stallP_pins (i n : Nat) : (stallP p i n).pins = p.pins := rfl
@[simp] theorem stallP_memp (i n : Nat) : (stallP p i n).memp = p.memp := rfl
@[simp] theorem stallP_colp (i n : Nat) : (stallP p i n).colp = p.colp := rfl
@[simp] theorem stallP_bb (i n : Nat) : (stallP p i n).bb = p.bb := rfl
@[simp] theorem stallP_ledger (i n : Nat) : (stallP p i n).ledger = p.ledger := rfl
@[simp] theorem stallP_nvm (i n : Nat) : (stallP p i n).nvm = p.nvm := rfl
@[simp] theorem stallP_fuses (i n : Nat) : (stallP p i n).fuses = p.fuses := rfl
@[simp] theorem stallP_boot (i n : Nat) : (stallP p i n).boot = p.boot := rfl
@[simp] theorem stallP_mem (i n : Nat) : (stallP p i n).mem = p.mem := rfl
@[simp] theorem stallP_freeCtr (i n : Nat) : (stallP p i n).freeCtr = p.freeCtr := rfl

end Sys2Proof.Machine
end

