-- ==== Sys2Proof/Laws/Tables.lean ====
section
/-! SUPPORT. Laws of tables with rising keys and of byte memories: read after write, other places untouched,
the canonical form kept. -/

namespace Sys2Proof.Machine

variable {α : Type}

@[simp] theorem spGet_nil (i : Nat) : spGet ([] : Sparse α) i = none := rfl

theorem spGet_put_same (t : Sparse α) (i : Nat) (x : α) : spGet (spPut t i x) i = some x := by
  induction t with
  | nil => simp [spPut, spGet]
  | cons c t ih =>
    obtain ⟨k, v⟩ := c
    simp only [spPut]
    split
    · simp [spGet]
    · split
      · simp [spGet]
      · simp only [spGet]; split
        · contradiction
        · exact ih

theorem spGet_put_ne (t : Sparse α) {i j : Nat} (x : α) (h : j ≠ i) : spGet (spPut t i x) j = spGet t j := by
  induction t with
  | nil => simp [spPut, spGet, h]
  | cons c t ih =>
    obtain ⟨k, v⟩ := c
    simp only [spPut]
    split
    · simp [spGet, h]
    · split
      · next hk => subst hk; simp [spGet, h]
      · simp only [spGet, ih]

theorem spGet_del_same (t : Sparse α) (i : Nat) : spGet (spDel t i) i = none := by
  induction t with
  | nil => rfl
  | cons c t ih =>
    obtain ⟨k, v⟩ := c
    simp only [spDel]
    split
    · exact ih
    · next hk => simp [spGet, hk, ih]

theorem spGet_del_ne (t : Sparse α) {i j : Nat} (h : j ≠ i) : spGet (spDel t i) j = spGet t j := by
  induction t with
  | nil => rfl
  | cons c t ih =>
    obtain ⟨k, v⟩ := c
    simp only [spDel]
    split
    · next hk => subst hk; simp [spGet, h, ih]
    · simp only [spGet, ih]

@[simp] theorem spGetD_put_same (t : Sparse α) (i : Nat) (x d : α) : spGetD (spPut t i x) i d = x := by
  simp [spGetD, spGet_put_same]

theorem spGetD_put_ne (t : Sparse α) {i j : Nat} (x d : α) (h : j ≠ i) :
    spGetD (spPut t i x) j d = spGetD t j d := by
  simp [spGetD, spGet_put_ne t x h]

@[simp] theorem spGetD_set_same [DecidableEq α] (t : Sparse α) (i : Nat) (x d : α) :
    spGetD (spSet d t i x) i d = x := by
  unfold spSet
  split
  · next h => simp [spGetD, spGet_del_same, h]
  · simp

theorem spGetD_set_ne [DecidableEq α] (t : Sparse α) {i j : Nat} (x d : α) (h : j ≠ i) :
    spGetD (spSet d t i x) j d = spGetD t j d := by
  unfold spSet
  split
  · simp [spGetD, spGet_del_ne t h]
  · exact spGetD_put_ne t x d h

/-! ## Rising keys -/

/-- Every key of a table is above `n`. -/
def keysAbove (n : Nat) (t : Sparse α) : Prop := ∀ c ∈ t, n < c.1

theorem spRising_cons (c : Nat × α) (t : Sparse α) :
    spRising (c :: t) = true ↔ keysAbove c.1 t ∧ spRising t = true := by
  induction t generalizing c with
  | nil => simp [spRising, keysAbove]
  | cons b t ih =>
    obtain ⟨k, v⟩ := c
    obtain ⟨k', v'⟩ := b
    simp only [spRising, Bool.and_eq_true, decide_eq_true_eq, ih]
    constructor
    · rintro ⟨h, h1, h2⟩
      refine ⟨?_, h1, h2⟩
      intro c hc
      rcases List.mem_cons.1 hc with rfl | hc
      · exact h
      · exact Nat.lt_trans h (h1 c hc)
    · rintro ⟨h, h1, h2⟩
      exact ⟨h _ (List.mem_cons_self ..), h1, h2⟩

theorem mem_spPut {t : Sparse α} {i : Nat} {x : α} {c : Nat × α} (h : c ∈ spPut t i x) : c = (i, x) ∨ c ∈ t := by
  induction t with
  | nil => simpa [spPut] using h
  | cons b t ih =>
    obtain ⟨k, v⟩ := b
    simp only [spPut] at h
    split at h
    · simpa using h
    · split at h
      · rcases List.mem_cons.1 h with h | h
        · exact .inl h
        · exact .inr (List.mem_cons_of_mem _ h)
      · rcases List.mem_cons.1 h with h | h
        · exact .inr (h ▸ List.mem_cons_self ..)
        · exact (ih h).imp_right (List.mem_cons_of_mem _)

theorem mem_spDel {t : Sparse α} {i : Nat} {c : Nat × α} (h : c ∈ spDel t i) : c ∈ t := by
  induction t with
  | nil => exact h
  | cons b t ih =>
    obtain ⟨k, v⟩ := b
    simp only [spDel] at h
    split at h
    · exact List.mem_cons_of_mem _ (ih h)
    · rcases List.mem_cons.1 h with h | h
      · exact h ▸ List.mem_cons_self ..
      · exact List.mem_cons_of_mem _ (ih h)

theorem spRising_put (t : Sparse α) (i : Nat) (x : α) (h : spRising t = true) : spRising (spPut t i x) = true := by
  induction t with
  | nil => rfl
  | cons b t ih =>
    obtain ⟨k, v⟩ := b
    have hb := (spRising_cons _ _).1 h
    simp only [spPut]
    split
    · next hk =>
      refine (spRising_cons _ _).2 ⟨?_, h⟩
      intro c hc
      rcases List.mem_cons.1 hc with rfl | hc
      · exact hk
      · exact Nat.lt_trans hk (hb.1 c hc)
    · split
      · next hk => subst hk; exact (spRising_cons _ _).2 ⟨hb.1, hb.2⟩
      · next h1 h2 =>
        refine (spRising_cons _ _).2 ⟨?_, ih hb.2⟩
        intro c hc
        rcases mem_spPut hc with rfl | hc
        · show k < i; omega
        · exact hb.1 c hc

theorem spRising_del (t : Sparse α) (i : Nat) (h : spRising t = true) : spRising (spDel t i) = true := by
  induction t with
  | nil => rfl
  | cons b t ih =>
    obtain ⟨k, v⟩ := b
    have hb := (spRising_cons _ _).1 h
    simp only [spDel]
    split
    · exact ih hb.2
    · exact (spRising_cons _ _).2 ⟨fun c hc => hb.1 c (mem_spDel hc), ih hb.2⟩

/-! ## Byte memories -/

theorem memPut_wf (d : Byte) (m : Mem) (a : Nat) (b : Byte) (h : Memory.wf d m = true) :
    Memory.wf d (memPut d m a b) = true := by
  simp only [Memory.wf, Bool.and_eq_true, List.all_eq_true, bne_iff_ne] at h ⊢
  unfold memPut spSet
  split
  · exact ⟨spRising_del _ _ h.1, fun c hc => h.2 c (mem_spDel hc)⟩
  · next hb =>
    refine ⟨spRising_put _ _ _ h.1, fun c hc => ?_⟩
    rcases mem_spPut hc with rfl | hc
    · exact hb
    · exact h.2 c hc

theorem memWrite_wf (d : Byte) (m : Mem) (a : Nat) (bs : List Byte) (h : Memory.wf d m = true) :
    Memory.wf d (memWrite d m a bs) = true := by
  induction bs generalizing m a with
  | nil => exact h
  | cons b t ih => exact ih _ _ (memPut_wf d m a b h)

@[simp] theorem memGet_put_same (d : Byte) (m : Mem) (a : Nat) (b : Byte) : memGet d (memPut d m a b) a = b := by
  simp [memGet, memPut]

theorem memGet_put_ne (d : Byte) (m : Mem) {a k : Nat} (b : Byte) (h : k ≠ a) :
    memGet d (memPut d m a b) k = memGet d m k := by
  simp only [memGet, memPut]
  exact spGetD_set_ne m b d h

/-- A write leaves every byte outside it alone. -/
theorem memGet_write_out (d : Byte) (m : Mem) (a : Nat) (bs : List Byte) (k : Nat)
    (h : k < a ∨ a + bs.length ≤ k) : memGet d (memWrite d m a bs) k = memGet d m k := by
  induction bs generalizing m a with
  | nil => rfl
  | cons b t ih =>
    simp only [List.length_cons] at h
    rw [memWrite, ih _ _ (by omega), memGet_put_ne d m b (by omega)]

/-- A written byte reads back. -/
theorem memGet_write_in (d : Byte) (m : Mem) (a : Nat) (bs : List Byte) (j : Nat) (h : j < bs.length) :
    memGet d (memWrite d m a bs) (a + j) = bs[j] := by
  induction bs generalizing m a j with
  | nil => simp at h
  | cons b t ih =>
    rw [memWrite]
    cases j with
    | zero => rw [memGet_write_out _ _ _ _ _ (by omega)]; simp
    | succ j =>
      have := ih (memPut d m a b) (a + 1) j (by simpa using h)
      rw [show a + 1 + j = a + (j + 1) by omega] at this
      simpa using this

end Sys2Proof.Machine
end

