-- ==== Sys2Proof/Laws/Access.lean ====
section
/-! SUPPORT. Reading a place of the Plane after a named update: the place itself, and every other place. -/

namespace Sys2Proof.Machine

variable (p : Plane)

@[simp] theorem getV_setV (v : Nat) (e : VEng) : getV (setV p v e) v = e := by simp [getV, setV]
theorem getV_setV_ne {v w : Nat} (e : VEng) (h : w ≠ v) : getV (setV p v e) w = getV p w := by
  simp [getV, setV, spGetD_put_ne _ _ _ h]
@[simp] theorem getV_modV (v : Nat) (f : VEng → VEng) : getV (modV p v f) v = f (getV p v) := by simp [modV]
theorem getV_modV_ne {v w : Nat} (f : VEng → VEng) (h : w ≠ v) : getV (modV p v f) w = getV p w :=
  getV_setV_ne p _ h

@[simp] theorem getP_setP (i : Nat) (x : Part) : getP (setP p i x) i = x := by simp [getP, setP]
theorem getP_setP_ne {i j : Nat} (x : Part) (h : j ≠ i) : getP (setP p i x) j = getP p j := by
  simp [getP, setP, spGetD_put_ne _ _ _ h]
@[simp] theorem getP_modP (i : Nat) (f : Part → Part) : getP (modP p i f) i = f (getP p i) := by simp [modP]
theorem getP_modP_ne {i j : Nat} (f : Part → Part) (h : j ≠ i) : getP (modP p i f) j = getP p j :=
  getP_setP_ne p _ h

@[simp] theorem getM_setM (m : Nat) (x : Mbx) : getM (setM p m x) m = x := by simp [getM, setM]
theorem getM_setM_ne {m n : Nat} (x : Mbx) (h : n ≠ m) : getM (setM p m x) n = getM p n := by
  simp [getM, setM, spGetD_put_ne _ _ _ h]

@[simp] theorem getPhys_setPhys (e : Nat) (x : Phys) : getPhys (setPhys p e x) e = x := by simp [getPhys, setPhys]
theorem getPhys_setPhys_ne {e k : Nat} (x : Phys) (h : k ≠ e) : getPhys (setPhys p e x) k = getPhys p k := by
  simp [getPhys, setPhys, spGetD_put_ne _ _ _ h]

@[simp] theorem getRg_setRg (r : Nat) (x : Region) : getRg (setRg p r x) r = x := by simp [getRg, setRg]
theorem getRg_setRg_ne {r k : Nat} (x : Region) (h : k ≠ r) : getRg (setRg p r x) k = getRg p k := by
  simp [getRg, setRg, spGetD_put_ne _ _ _ h]

@[simp] theorem getMP_setMP (n : Nat) (x : MPort) : getMP (setMP p n x) n = x := by simp [getMP, setMP]
theorem getMP_setMP_ne {n k : Nat} (x : MPort) (h : k ≠ n) : getMP (setMP p n x) k = getMP p k := by
  simp [getMP, setMP, spGetD_put_ne _ _ _ h]

@[simp] theorem getQ_setQ (q : Nat) (x : Hq) : getQ (setQ p q x) q = x := by simp [getQ, setQ]
theorem getQ_setQ_ne {q k : Nat} (x : Hq) (h : k ≠ q) : getQ (setQ p q x) k = getQ p k := by
  simp [getQ, setQ, spGetD_put_ne _ _ _ h]

/-! ## Tasks -/

@[simp] theorem getT_setT (v s : Nat) (t : Task) : getT (setT p v s t) v s = t := by simp [getT, setT]

theorem getT_setT_ne {v s w k : Nat} (t : Task) (h : w ≠ v ∨ k ≠ s) : getT (setT p v s t) w k = getT p w k := by
  unfold setT getT
  by_cases hw : w = v
  · subst hw
    rw [getV_modV]
    exact spGetD_put_ne _ _ _ (h.resolve_left (fun h => h rfl))
  · rw [getV_modV_ne p _ hw]

@[simp] theorem getT_modT (v s : Nat) (f : Task → Task) : getT (modT p v s f) v s = f (getT p v s) := by
  simp [modT]

theorem getT_modT_ne {v s w k : Nat} (f : Task → Task) (h : w ≠ v ∨ k ≠ s) :
    getT (modT p v s f) w k = getT p w k := getT_setT_ne p _ h

/-- An update of an engine that keeps its tasks keeps every task. -/
theorem getT_modV (v : Nat) (f : VEng → VEng) (h : (f (getV p v)).tasks = (getV p v).tasks) (w k : Nat) :
    getT (modV p v f) w k = getT p w k := by
  unfold getT
  by_cases hw : w = v
  · subst hw; rw [getV_modV, h]
  · rw [getV_modV_ne p _ hw]

@[simp] theorem getT_stallV (v i n w k : Nat) : getT (stallV p v i n) w k = getT p w k := getT_modV p v _ rfl w k

/-! ## Registers and predicates (R163) -/

@[simp] theorem rGet_zero (t : TaskRegs) : rGet t 0 = 0 := rfl

theorem rGet_put (t : TaskRegs) (r k : BitVec 5) (v : Nat) :
    rGet (rPut t r v) k = if k = 0#5 then 0 else if k = r then v % 2 ^ 64 else rGet t k := by
  unfold rGet rPut
  by_cases hk : k = 0#5
  · subst hk; rfl
  · have hk' : k.toNat ≠ 0 := fun h => hk (BitVec.eq_of_toNat_eq h)
    by_cases hr : r.toNat = 0
    · have : k ≠ r := fun h => hk' (h ▸ hr)
      simp only [hr, hk, hk', this, if_true, if_false]
    · by_cases hkr : k = r
      · subst hkr; simp only [hk, hk', if_true, if_false, spGetD_set_same, BitVec.toNat_ofNat]
      · have hn : k.toNat ≠ r.toNat := fun h => hkr (BitVec.eq_of_toNat_eq h)
        simp only [hr, hk, hk', hkr, if_false, spGetD_set_ne _ _ _ hn]

@[simp] theorem rPut_pc (t : TaskRegs) (r : BitVec 5) (v : Nat) : (rPut t r v).pc = t.pc := by unfold rPut; split <;> rfl
@[simp] theorem rPut_loops (t : TaskRegs) (r : BitVec 5) (v : Nat) : (rPut t r v).loops = t.loops := by
  unfold rPut; split <;> rfl
@[simp] theorem rPut_p (t : TaskRegs) (r : BitVec 5) (v : Nat) : (rPut t r v).p = t.p := by unfold rPut; split <;> rfl
@[simp] theorem pPut_s (t : TaskRegs) (k : BitVec 3) (b : Bool) : (pPut t k b).s = t.s := by unfold pPut; split <;> rfl
@[simp] theorem pPut_pc (t : TaskRegs) (k : BitVec 3) (b : Bool) : (pPut t k b).pc = t.pc := by unfold pPut; split <;> rfl
@[simp] theorem pPut_loops (t : TaskRegs) (k : BitVec 3) (b : Bool) : (pPut t k b).loops = t.loops := by
  unfold pPut; split <;> rfl

end Sys2Proof.Machine
end

