-- ==== Sys2Proof/Laws/Issue.lean ====
section
/-! SUPPORT. What the shared issue of an engine instruction does: the gate, the marks of the sequencer, the
effect, the PC. -/

namespace Sys2Proof.Machine

/-! ## When an instruction issues -/

/-- The conditions of `canIssue`, one by one. -/
structure Issues (c : Instr) (i : Issue) (plan : Plane → Env → Plan) (pi : Nat) (p : Plane) : Prop where
  gate : gate p i = .go pi
  pc : (taskAt p i).regs.pc < ninsnOf p i.veng.val
  fetch : i.fetch = .ok
  word : fetched p (envOf p i pi) i = some (spelled c)
  head : sameGuard i (insnAt p (envOf p i pi)).toNat = true
  legal : (plan p (envOf p i pi)).ill = false
  guard : guardOff (taskAt p i).regs i = false
  fields : firstHead (plan p (envOf p i pi)).head = none
  holds : holdFirst (holdsOf p (envOf p i pi) (plan p (envOf p i pi))) = none
  turn : onTurn p i = true
  gran : (plan p (envOf p i pi)).gran = false
  ctxs : ctxFault p (envOf p i pi) (plan p (envOf p i pi)) = none
  check : (plan p (envOf p i pi)).check = none

theorem canIssue_iff (c : Instr) (i : Issue) (plan : Plane → Env → Plan) (pi : Nat) (p : Plane) :
    canIssue c i plan pi p = true ↔ Issues c i plan pi p := by
  simp only [canIssue, spells, Bool.and_eq_true, beq_iff_eq, decide_eq_true_eq, Option.isNone_iff_eq_none,
    Bool.not_eq_true']
  constructor
  · rintro ⟨⟨⟨⟨⟨⟨⟨⟨⟨⟨h1, h2⟩, ⟨⟨h3, h4⟩, h5⟩⟩, h6⟩, h7⟩, h8⟩, h9⟩, h10⟩, h11⟩, h12⟩, h13⟩
    exact ⟨h1, h2, h3, h4, h5, h6, h7, h8, h9, h10, h11, h12, h13⟩
  · rintro ⟨h1, h2, h3, h4, h5, h6, h7, h8, h9, h10, h11, h12, h13⟩
    exact ⟨⟨⟨⟨⟨⟨⟨⟨⟨⟨h1, h2⟩, ⟨⟨h3, h4⟩, h5⟩⟩, h6⟩, h7⟩, h8⟩, h9⟩, h10⟩, h11⟩, h12⟩, h13⟩

/-- An instruction that can issue takes effect, unless a storage error stops it. -/
theorem issueWith_canIssue {c : Instr} {i : Issue} {plan : Plane → Env → Plan} {pi : Nat} {p : Plane}
    (h : canIssue c i plan pi p = true) (run : Plane → Env → Nat → Plane) :
    issueWith c i plan run p
      = issued p (envOf p i pi) (plan p (envOf p i pi)) (stored i (plan p (envOf p i pi)) run) := by
  obtain ⟨h1, h2, h3, h4, h5, h6, h7, h8, h9, h10, h11, h12, h13⟩ := (canIssue_iff c i plan pi p).1 h
  have h2' : ¬ ninsnOf p (envOf p i pi).v ≤ (envOf p i pi).t.regs.pc := Nat.not_le.2 h2
  have h7' : guardOff (envOf p i pi).t.regs (envOf p i pi).i = false := h7
  have h10' : onTurn p (envOf p i pi).i = true := h10
  simp [issueWith, h1, h2', h3, h4, h5, attempt, h6, h7', h8, tryIssue, h9, h10', h11, h12, h13]
  rfl

/-- Without a storage error the effect is the instruction's own. -/
theorem stored_none (i : Issue) (pl : Plan) (run : Plane → Env → Nat → Plane) (h : i.errs = []) :
    stored i pl run = run := by
  funext p e id
  simp [stored, h, storeErrs]

/-- What an open gate says. -/
theorem gate_go {p : Plane} {i : Issue} {pi : Nat} (h : gate p i = .go pi) :
    (taskAt p i).st = .active ∧ (getP p pi).rollback = none ∧ p.regs.state = .ready ∧ p.pins.quiesceN = true
      ∧ partOf p i.veng.val = some pi := by
  simp only [gate] at h
  match hj : partOf p i.veng.val with
  | none => simp [hj] at h
  | some j =>
    simp only [hj] at h
    split at h
    · cases h
    · next hn =>
      split at h
      · cases h
      · next hq =>
        split at h
        · cases h
        · next hr =>
          simp only [Gate.go.injEq] at h
          subst h
          refine ⟨?_, ?_, ?_, ?_, rfl⟩
          · exact Decidable.byContradiction fun k => hn (.inr (.inl k))
          · simpa using hr
          · exact Decidable.byContradiction fun k => hn (.inl k)
          · simpa using hq

/-! ## Frames -/

theorem SeqFrame.refl (p : Plane) : SeqFrame p p := ⟨rfl, fun _ => rfl, fun _ => rfl, fun _ => rfl, fun _ => rfl⟩

theorem SeqFrame.trans {p q r : Plane} (h : SeqFrame p q) (k : SeqFrame q r) : SeqFrame p r :=
  ⟨by rw [k.rest, h.rest], fun v => (k.engines v).trans (h.engines v), fun i => (k.parts i).trans (h.parts i),
    fun e => (k.phys e).trans (h.phys e), fun e => (k.regions e).trans (h.regions e)⟩

/-- An update of an engine's task slots, round-robin position and stall counters alone. -/
theorem SeqFrame.modV (p : Plane) (v : Nat) (f : VEng → VEng) (h : (f (getV p v)).data = (getV p v).data) :
    SeqFrame p (modV p v f) := by
  refine ⟨rfl, fun w => ?_, fun _ => rfl, fun _ => rfl, fun _ => rfl⟩
  by_cases hw : w = v
  · subst hw; rw [getV_modV, h]
  · rw [getV_modV_ne p _ hw]

theorem SeqFrame.modT (p : Plane) (v s : Nat) (f : Task → Task) : SeqFrame p (modT p v s f) :=
  SeqFrame.modV p v (fun e => { e with tasks := spPut e.tasks s (f (getT p v s)) }) rfl

theorem SeqFrame.stallV (p : Plane) (v i n : Nat) : SeqFrame p (stallV p v i n) :=
  SeqFrame.modV p v (fun e => { e with stalls := spSet 0 e.stalls i (sat32 (spGetD e.stalls i 0) n) }) rfl

theorem SeqFrame.modEp (p : Plane) (i n : Nat) (f : EpRec → EpRec) : SeqFrame p (modEp p i n f) := by
  refine ⟨rfl, fun _ => rfl, fun j => ?_, fun _ => rfl, fun _ => rfl⟩
  by_cases hj : j = i
  · subst hj; simp only [Machine.modEp, getP_modP]
  · simp only [Machine.modEp, getP_modP_ne p _ hj]

theorem SeqFrame.cur (p : Plane) (e v : Nat) : SeqFrame p (modPhys p e (fun x => { x with cur := v })) := by
  refine ⟨rfl, fun _ => rfl, fun _ => rfl, fun k => ?_, fun _ => rfl⟩
  by_cases hk : k = e
  · subst hk; simp only [modPhys, getPhys_setPhys]
  · simp only [modPhys, getPhys_setPhys_ne p _ hk]

theorem SeqFrame.tokens (p : Plane) (r : Nat) (n : Int) (k : Region → Nat) :
    SeqFrame p (modRg p r (fun x => { x with
      tokens := x.tokens - n
      activity := k x })) := by
  refine ⟨rfl, fun _ => rfl, fun _ => rfl, fun _ => rfl, fun k => ?_⟩
  by_cases hk : k = r
  · subst hk; simp only [modRg, getRg_setRg]
  · simp only [modRg, getRg_setRg_ne p _ hk]

theorem SeqFrame.foldl {β : Type} (l : List β) (f : Plane → β → Plane) (h : ∀ p b, SeqFrame p (f p b)) (p : Plane) :
    SeqFrame p (l.foldl f p) := by
  induction l generalizing p with
  | nil => exact SeqFrame.refl p
  | cons b t ih => exact (h p b).trans (ih _)

theorem noteIssue_frame (p : Plane) (e : Env) : SeqFrame p (noteIssue p e) := by
  unfold noteIssue
  exact (SeqFrame.stallV _ _ _ _).trans ((SeqFrame.foldl _ _ (fun p w => SeqFrame.stallV p w 10 1) _).trans
    ((SeqFrame.modV _ _ _ rfl).trans ((SeqFrame.cur _ _ _).trans (SeqFrame.modEp _ _ _ _))))

theorem noteUnits_frame (p : Plane) (e : Env) (pl : Plan) : SeqFrame p (noteUnits p e pl) := by
  unfold noteUnits
  exact (SeqFrame.stallV _ _ _ _).trans ((SeqFrame.stallV _ _ _ _).trans (SeqFrame.tokens _ _ _ _))

/-! ## Tasks under the sequencer's marks -/

theorem getT_foldl_stall (l : List Nat) (p : Plane) (i n v s : Nat) :
    getT (l.foldl (fun p w => stallV p w i n) p) v s = getT p v s := by
  induction l generalizing p with
  | nil => rfl
  | cons a t ih => rw [List.foldl_cons, ih, getT_stallV]

@[simp] theorem getT_modEp (p : Plane) (i n : Nat) (f : EpRec → EpRec) (v s : Nat) :
    getT (modEp p i n f) v s = getT p v s := rfl
@[simp] theorem getT_modPhys (p : Plane) (e : Nat) (f : Phys → Phys) (v s : Nat) :
    getT (modPhys p e f) v s = getT p v s := rfl
@[simp] theorem getT_modRg (p : Plane) (r : Nat) (f : Region → Region) (v s : Nat) :
    getT (modRg p r f) v s = getT p v s := rfl

@[simp] theorem getT_noteIssue (p : Plane) (e : Env) (v s : Nat) : getT (noteIssue p e) v s = getT p v s := by
  simp only [noteIssue, getT_modEp, getT_modPhys]
  rw [getT_modV _ _ _ rfl, getT_foldl_stall, getT_stallV]

@[simp] theorem getT_noteUnits (p : Plane) (e : Env) (pl : Plan) (v s : Nat) :
    getT (noteUnits p e pl) v s = getT p v s := by
  simp only [noteUnits, getT_modRg, getT_stallV]

/-! ## A plan that neither flies nor names buffers or contexts -/

/-- What such an instruction does: the marks, the effect, the PC. -/
def marks (p : Plane) (e : Env) (pl : Plan) : Plane := noteUnits (noteIssue p e) e pl

theorem marks_frame (p : Plane) (e : Env) (pl : Plan) : SeqFrame p (marks p e pl) :=
  (noteIssue_frame p e).trans (noteUnits_frame _ e pl)

@[simp] theorem getT_marks (p : Plane) (e : Env) (pl : Plan) (v s : Nat) : getT (marks p e pl) v s = getT p v s := by
  simp [marks]

/-- A plan that neither flies nor names buffers or contexts begins with the marks alone. -/
theorem begun_plain (p : Plane) (e : Env) (pl : Plan) (h1 : pl.flies = false) (h2 : pl.ctxs = []) (h3 : pl.rd = [])
    (h4 : pl.wr = []) : begun p e pl = marks p e pl := by
  simp [begun, marks, noteBacking, h1, h2, h3, h4]

/-! ## Every plan -/

theorem SeqFrame.issue {p q : Plane} (h : SeqFrame p q) : IssueFrame p q := by
  obtain ⟨h0, h1, h2, h3, h4⟩ := h
  refine ⟨?_, h1, h2, h3, h4⟩
  rw [h0]

theorem IssueFrame.trans {p q r : Plane} (h : IssueFrame p q) (k : IssueFrame q r) : IssueFrame p r :=
  ⟨by rw [k.rest, h.rest], fun v => (k.engines v).trans (h.engines v), fun i => (k.parts i).trans (h.parts i),
    fun e => (k.phys e).trans (h.phys e), fun e => (k.regions e).trans (h.regions e)⟩

theorem IssueFrame.refl (p : Plane) : IssueFrame p p := (SeqFrame.refl p).issue

theorem IssueFrame.foldl {β : Type} (l : List β) (f : Plane → β → Plane) (h : ∀ p b, IssueFrame p (f p b))
    (p : Plane) : IssueFrame p (l.foldl f p) := by
  induction l generalizing p with
  | nil => exact .refl p
  | cons b t ih => exact (h p b).trans (ih _)

theorem SeqFrame.stallR (p : Plane) (r i n : Nat) : SeqFrame p (stallR p r i n) := by
  refine ⟨rfl, fun _ => rfl, fun _ => rfl, fun _ => rfl, fun k => ?_⟩
  by_cases hk : k = r
  · subst hk; simp only [Machine.stallR, modRg, getRg_setRg]
  · simp only [Machine.stallR, modRg, getRg_setRg_ne p _ hk]

theorem noteBacking_frame (p : Plane) (pl : Plan) : SeqFrame p (noteBacking p pl) := by
  unfold noteBacking
  refine SeqFrame.foldl _ _ (fun p b => ?_) p
  split
  · exact SeqFrame.stallR _ _ _ _
  · exact SeqFrame.refl p

theorem ctxTouch_frame (p : Plane) (id : Nat) : IssueFrame p (ctxTouch p id) :=
  ⟨rfl, fun _ => rfl, fun _ => rfl, fun _ => rfl, fun _ => rfl⟩

theorem launch_frame (p : Plane) (e : Env) (pl : Plan) : IssueFrame p (launch p e pl) :=
  ⟨rfl, fun _ => rfl, fun _ => rfl, fun _ => rfl, fun _ => rfl⟩

theorem begun_frame (p : Plane) (e : Env) (pl : Plan) : IssueFrame p (begun p e pl) := by
  have h1 : SeqFrame p (noteBacking (noteUnits (noteIssue p e) e pl) pl) :=
    (marks_frame p e pl).trans (noteBacking_frame _ pl)
  have h2 := h1.issue.trans (IssueFrame.foldl pl.ctxs (fun p c => ctxTouch p c.1) (fun p c => ctxTouch_frame p c.1) _)
  unfold begun
  split
  · exact h2.trans (launch_frame _ e pl)
  · exact h2

theorem getT_noteBacking (p : Plane) (pl : Plan) (v s : Nat) : getT (noteBacking p pl) v s = getT p v s := by
  unfold noteBacking
  generalize pl.rd ++ pl.wr = l
  induction l generalizing p with
  | nil => rfl
  | cons b t ih => rw [List.foldl_cons, ih]; split <;> rfl

theorem getT_foldl_touch (l : List (Nat × Role)) (p : Plane) (v s : Nat) :
    getT (l.foldl (fun p c => ctxTouch p c.1) p) v s = getT p v s := by
  induction l generalizing p with
  | nil => rfl
  | cons b t ih => rw [List.foldl_cons, ih]; rfl

@[simp] theorem getT_launch (p : Plane) (e : Env) (pl : Plan) (v s : Nat) : getT (launch p e pl) v s = getT p v s := rfl

@[simp] theorem getT_begun (p : Plane) (e : Env) (pl : Plan) (v s : Nat) : getT (begun p e pl) v s = getT p v s := by
  unfold begun
  simp only
  split
  · rw [getT_launch, getT_foldl_touch, getT_noteBacking, getT_noteUnits, getT_noteIssue]
  · rw [getT_foldl_touch, getT_noteBacking, getT_noteUnits, getT_noteIssue]

/-- The instruction that joins those in flight. -/
def planFlight (p : Plane) (e : Env) (pl : Plan) : Flight :=
  { id := p.nextId, veng := e.v, slot := e.s, part := e.pi, epoch := e.ep, tag := pl.tag,
    memTrk := pl.memTrk, ringTrk := pl.ringTrk, groups := pl.groups, bufRd := rdRegions pl ++ pl.keep,
    bufWr := wrRegions pl, ctxs := pl.ctxs.map Prod.fst, failed := false, bad := [], finish := pl.finish }

theorem flights_foldl_touch (l : List (Nat × Role)) (p : Plane) :
    (l.foldl (fun p c => ctxTouch p c.1) p).flights = p.flights
      ∧ (l.foldl (fun p c => ctxTouch p c.1) p).nextId = p.nextId := by
  induction l generalizing p with
  | nil => exact ⟨rfl, rfl⟩
  | cons b t ih => rw [List.foldl_cons]; exact ih _

theorem SeqFrame.flights {p q : Plane} (h : SeqFrame p q) : q.flights = p.flights := by rw [h.rest]
theorem SeqFrame.nextId {p q : Plane} (h : SeqFrame p q) : q.nextId = p.nextId := by rw [h.rest]

theorem begun_flights (p : Plane) (e : Env) (pl : Plan) (h : pl.flies = true) :
    (begun p e pl).flights = p.flights ++ [planFlight p e pl] ∧ (begun p e pl).nextId = p.nextId + 1 := by
  have h1 : SeqFrame p (noteBacking (noteUnits (noteIssue p e) e pl) pl) :=
    (marks_frame p e pl).trans (noteBacking_frame _ pl)
  have h2 := flights_foldl_touch pl.ctxs (noteBacking (noteUnits (noteIssue p e) e pl) pl)
  unfold begun
  simp only [h, if_true, launch, planFlight]
  rw [h2.1, h2.2, h1.flights, h1.nextId]
  exact ⟨rfl, rfl⟩

theorem begun_noFlight (p : Plane) (e : Env) (pl : Plan) (h : pl.flies = false) :
    (begun p e pl).flights = p.flights ∧ (begun p e pl).nextId = p.nextId := by
  have h1 : SeqFrame p (noteBacking (noteUnits (noteIssue p e) e pl) pl) :=
    (marks_frame p e pl).trans (noteBacking_frame _ pl)
  have h2 := flights_foldl_touch pl.ctxs (noteBacking (noteUnits (noteIssue p e) e pl) pl)
  unfold begun
  simp only [h, Bool.false_eq_true, if_false]
  rw [h2.1, h2.2, h1.flights, h1.nextId]
  exact ⟨rfl, rfl⟩

/-- The PC moves on when the effect keeps the partition's rollback as it was. -/
theorem advanceAfter_keeps {p q : Plane} (e : Env) (pl : Plan) (h1 : (getP q e.pi).rollbacks = (getP p e.pi).rollbacks)
    (h2 : (getP q e.pi).rollback = none) : advanceAfter p q e pl = advance q e pl := by
  unfold advanceAfter
  rw [if_pos ⟨h1, by simp [h2]⟩]

/-- The PC moves on when the effect keeps the partition out of a rollback. -/
theorem advanceAfter_frame {p q : Plane} (e : Env) (pl : Plan) (h : SeqFrame p q)
    (hr : (getP p e.pi).rollback = none) : advanceAfter p q e pl = advance q e pl := by
  have h1 := congrArg Part.rollbacks (h.parts e.pi)
  have h2 := congrArg Part.rollback (h.parts e.pi)
  unfold advanceAfter
  rw [if_pos]
  exact ⟨h1, by rw [show (getP q e.pi).rollback = _ from h2]; simp [hr]⟩

end Sys2Proof.Machine
end

