-- ==== Sys2Proof/Tests/Slice0.lean ====
section
/-! SUPPORT. Smoke tests of the commands' checks, words written out from the encoding tables, worked examples of the
manual, and witnesses: for every statement with hypotheses a small state that meets them. -/

open Sys2Proof Sys2Proof.Machine Sys2Proof.Claims

namespace Sys2Proof.Tests

set_option Elab.async false

/-! ## Small states -/

/-- The Plane in READY. -/
def plane : Plane := { Plane.init with regs := { Regs.init with state := .ready, held := .no } }

/-- A task that runs in epoch 1 with these registers. -/
def task (s : Sparse U64) : Task := { Task.init with st := .active, epoch := 1, regs := { TaskRegs.init with s := s } }

/-- Virtual engine 0 with a program of 100 instructions at 1 MiB and one task; RES, RING and POOL have 64 KiB of each
half. -/
def veng (t : Task) : VEng :=
  { VEng.init 0 with prog := some ⟨0x100000, 100, [], 0, 0⟩, tasks := [(0, t)], bufCfg := 0x010101 }

def with0 (x : VEng) : Plane := { plane with vengs := [(0, x)] }

def run0 (s : Sparse U64) : Plane := with0 (veng (task s))

/-- A state with no command waiting. -/
def st (p : Plane) : State := ⟨p, []⟩

/-- Slot 0 of virtual engine 0, not guarded; no error meets it. -/
def is0 : Issue := ⟨0, 0, false, false, 0, .ok, [], []⟩

/-- The word at the PC of slot 0 of virtual engine 0. -/
def wordPut (w : Nat) (p : Plane) : Plane :=
  { p with mem := memWrite 0 p.mem (insnAddr p 0 (getT p 0 0).regs.pc) (toLE 16 w) }

/-- The instruction stands at that PC. -/
def fed (c : Instr) (p : Plane) : Plane := wordPut (((encodeInsn c).map BitVec.toNat).getD 0) p

/-- The instruction, once fed to the Plane, can issue. -/
abbrev Goes (c : Instr) (plan : Plane → Env → Plan) (p : Plane) : Prop := Clean c is0 plan 0 (st (fed c p)).plane

theorem goes {c : Instr} {plan : Plane → Env → Plan} {p : Plane} (h : canIssue c is0 plan 0 (fed c p) = true) :
    Goes c plan p := ⟨⟨h, rfl⟩, rfl⟩

/-- The slot is the one that its engine issues from, the word spells the instruction, and the guard holds. -/
def reaches (c : Instr) (p : Plane) : Bool :=
  gate p is0 == .go 0 && decide ((taskAt p is0).regs.pc < ninsnOf p is0.veng.val) && spells c is0 0 p
    && !guardOff (taskAt p is0).regs is0

theorem reaches_of {c : Instr} {p : Plane} (h : reaches c p = true) : Reaches c is0 0 p := by
  simp only [reaches, Bool.and_eq_true, beq_iff_eq, decide_eq_true_eq, Bool.not_eq_true'] at h
  exact ⟨h.1.1.1, h.1.1.2, h.1.2, h.2⟩

theorem no_failures (c : Instr) (s : Sparse U64) (k : Nat) : (getT (fed c (run0 s)) 0 k).failTags = 0 := by
  show (spGetD [(0, task s)] k Task.init).failTags = 0
  by_cases h : k = 0
  · subst h; rfl
  · simp [spGetD, spGet, h, Task.init]

/-! ## Commands that the surroundings cannot send -/

/-- The issue meets one error at a row of the tile. -/
def isAt (k : ArrayCheck) (row : BitVec 11) : Issue := { is0 with ev := [⟨k, row, 0⟩] }

def mma0 : MmaF := ⟨1, 1, 0, 1, false, 3, 0, 0, 1, 0, 0, 0⟩
def conv0 : ConvF := ⟨1, 0, 1, 1, false, 0, 0, 0, 0, 0, false, 0, 0, 0, 0⟩
def red0 : RedF := ⟨0, 0, 0, 0, 0, 0, 0, 0, 0, false, 3, 0, 0, false, 0, 0, 0, 0⟩
def xfer0 : XferF := ⟨15, 1, 0, 2, 0, 128, 0, 1, false, false, 3, 3, 0⟩

theorem test_wf_events_ok : (Instr.mma (isAt .residue 1279) mma0).wf = true := by decide
theorem test_wf_events : [Instr.mma (isAt .residue 1280) mma0, .conv (isAt .plazaCE 1300) conv0, .redSum (isAt .adder 2047) red0,
    .xstore (isAt .plazaUE 1280) xfer0, .xtstore (isAt .plazaUE 1280) xfer0, .xsend (isAt .plazaUE 1280) xfer0,
    .rsX (isAt .plazaCE 1280) xfer0, .arX (isAt .plazaCE 1280) xfer0, .instructionComplete 0 [⟨.adder, 1280, 0⟩],
    .squareClose 0 0 [⟨.plazaCE, 1280, 0⟩], .groupSpill 0 0 [⟨.plazaCE, 1280, 0⟩]].all (fun c => !c.wf) = true := by decide

def packet (n : Nat) : Packet := ⟨0, 0, 0, 0, 0, 0, 0, 0, 0, 0, 0, 1, 0, 0, 0, false, 0, 1, List.replicate n 0⟩

def fault0 : RxFault := ⟨false, false, false⟩

theorem test_wf_packet : (Instr.packetLanding 0 (packet 16385) fault0 [] []).wf = false
    ∧ (Instr.packetLanding 0 (packet 0) fault0 [⟨.adder, 1280, 0⟩] []).wf = false := by decide +kernel
theorem test_wf_packet_ok : (Instr.packetLanding 0 (packet 16384) fault0 [] []).wf = true := by decide +kernel
theorem test_wf_ack : (Instr.ackReceive 0 (packet 16385) fault0).wf = false := by decide +kernel
theorem test_wf_cycle : (Instr.mutualWaitBreak 0 []).wf = false := by decide
theorem test_wf_write_align : (Instr.registerWrite 0x100004 0xFF 0).wf = false := by decide
theorem test_wf_write_bytes : (Instr.registerWrite 0x88 0x0F 0).wf = false := by decide
theorem test_wf_write_ok : (Instr.registerWrite 0x100008 0x0F 0).wf = true := by decide
theorem test_wf_sample_count : (Instr.marginSample 0 [(100, 90)] 70).wf = false := by decide
theorem test_wf_sample_zero : (Instr.marginSample 0 [(0, 0), (1, 1), (1, 1), (1, 1)] 70).wf = false := by decide
theorem test_wf_sample_temp : (Instr.marginSample 0 [(1, 1), (1, 1), (1, 1), (1, 1)] 151).wf = false := by decide
theorem test_wf_nvm : (Instr.nvmInstrumentAccess true 0x01FFFFFF [0, 0]).wf = false := by decide
theorem test_wf_nvm_ok : (Instr.nvmInstrumentAccess true 0x01FFFFFE [0, 0]).wf = true := by decide

/-! ## Scalar and control-flow instructions -/

def alu (i : BitVec 48) : AluF := ⟨3, 1, 2, true, i⟩

theorem witness_alu : aluOp (.aluAdd is0 (alu 7)) = some (is0, alu 7, fun a b => a + b)
    ∧ Goes (.aluAdd is0 (alu 7)) planNone (run0 [(1, 5#64)]) := ⟨rfl, goes (by decide +kernel)⟩

theorem witness_rdspec : Goes (.aluRdspec is0 (alu 2)) (rdspecPlan (alu 2)) (run0 []) := goes (by decide +kernel)

theorem witness_rdspec_reserved : Reaches (.aluRdspec is0 (alu 3)) is0 0 (st (fed (.aluRdspec is0 (alu 3)) (run0 []))).plane
    ∧ 3 ≤ (opB (st (fed (.aluRdspec is0 (alu 3)) (run0 []))).plane is0 2 true 3).toNat :=
  ⟨reaches_of (by decide +kernel), by decide +kernel⟩

def setp1 : SetpF := ⟨5, 7, 2, 1, 2, false, 0⟩

theorem witness_setp : Goes (.setp is0 setp1) (setpPlan setp1) (run0 [(1, 5#64)]) := goes (by decide +kernel)

theorem witness_br : Goes (.br is0 ⟨false, 0, 98⟩) (brPlan ⟨false, 0, 98⟩) (run0 []) := goes (by decide +kernel)

/-- The whole rest of the image as a loop's body. -/
theorem witness_loop : Goes (.loop is0 ⟨1, 99⟩) (loopPlan ⟨1, 99⟩) (run0 [(1, 1#64)]) := goes (by decide +kernel)

/-- The last instruction of a loop of one instruction. -/
def looping : Plane := with0 (veng { task [] with regs := { TaskRegs.init with pc := 1, loops := [⟨1, 1, 1⟩] } })

theorem witness_loop_body : Goes (.aluAdd is0 (alu 7)) planNone looping
    ∧ (taskAt (fed (.aluAdd is0 (alu 7)) looping) is0).regs.loops = [⟨1, 1, 1⟩]
    ∧ (taskAt (fed (.aluAdd is0 (alu 7)) looping) is0).regs.pc = 1 ∧ ∀ l' ∈ ([] : List LoopE), 1 < l'.last :=
  ⟨goes (by decide +kernel), rfl, rfl, fun _ h => nomatch h⟩

theorem witness_waits : Goes (.yield is0) planNone (run0 []) ∧ Goes (.wait is0 0xFFFF) (tagPlan 0xFFFF) (run0 [])
    ∧ Goes (.sealAwait is0) awaitPlan (run0 []) := by and_intros <;> decide +kernel

theorem witness_halt : Goes (.halt is0) haltPlan (run0 []) := goes (by decide +kernel)
theorem witness_swap : Goes (.swap is0) swapPlan (run0 []) := goes (by decide +kernel)

/-! ## Queues, Crossings, seals, contexts -/

def queueing (items : List Nat) (t : Sparse U64) : Plane := { run0 t with queues := [(7, ⟨0, true, items, 0, 0, 0⟩)] }

/-- A handle of 1 unit in the POOL part of half A, at unit 23,040. -/
def handle : Nat := 23040

/-- Room in the queue; a full queue with TRY. -/
theorem witness_put :
    Goes (.hqPut is0 ⟨false, 7, 1, 0⟩) (putPlan ⟨false, 7, 1, 0⟩) (queueing [] [(1, BitVec.ofNat 64 handle)])
    ∧ Goes (.hqPut is0 ⟨true, 7, 1, 1⟩) (putPlan ⟨true, 7, 1, 1⟩)
        (queueing (List.replicate 32 handle) [(1, BitVec.ofNat 64 handle)]) := by
  and_intros <;> decide +kernel

theorem witness_get : Goes (.hqGet is0 ⟨false, 7, 1, 0⟩) (getPlan ⟨false, 7, 1, 0⟩) (queueing [handle] [])
    ∧ Goes (.hqGet is0 ⟨true, 7, 1, 1⟩) (getPlan ⟨true, 7, 1, 1⟩) (queueing [] []) := by
  and_intros <;> decide +kernel

theorem witness_cross_arrive : Goes (.crossArrive is0 63 1) (arrivePlan 63 1) (run0 [(1, 1#64)])
    ∧ ∀ k, (getT (st (fed (.crossArrive is0 63 1) (run0 [(1, 1#64)]))).plane 0 k).failTags = 0 :=
  ⟨goes (by decide +kernel), no_failures _ _⟩

/-- Crossing 63 has released for engine 0 alone. -/
def released : Plane :=
  { with0 { veng (task []) with arrivals := [(63, .released)] } with cross := [(63, ⟨1, 1, 1, true, 0, false⟩)] }

theorem witness_cross_wait : Goes (.crossWait is0 63) (waitPlan 63) released := goes (by decide +kernel)

theorem witness_seal_close : Goes (.sealClose is0 3) closePlan (run0 [])
    ∧ ∀ k, (getT (st (fed (.sealClose is0 3) (run0 []))).plane 0 k).failTags = 0 :=
  ⟨goes (by decide +kernel), no_failures _ _⟩

/-- A conversion context of FP32 elements with GLOBAL_ID 9 and DKEY 0, whose shape lies at 0x1000. -/
def ctx (id : Nat) : Cx := BitVec.ofNat 1024 (9 * 2 ^ 40 + 0x1000 * 2 ^ 64 + id * 2 ^ 808)

/-- Shape of rank 2, 16 by 2, elements at 0x2000, rows 64 B apart. -/
def shapeMem : Mem := memWrite 0 [] 0x1000 (toLE 128 (0x2000 + 2 * 2 ^ 256 + 16 * 2 ^ 320 + 2 * 2 ^ 352 + 64 * 2 ^ 512))

/-- Contexts 1 to 3 are resident. -/
def tensors (x : VEng) : Plane :=
  { with0 x with gaz := { Gaz.init with ways := [(1, ctx 1), (2, ctx 2), (3, ctx 3)], defined := [1, 2, 3] }, mem := shapeMem }

def ctxF (rst : Bool) : CtxF := ⟨1, rst, 2, 0, 15⟩

def snapping : Plane := tensors (veng (task [(1, 1#64), (2, 0x4000#64)]))

theorem witness_ctx : ctxGet (fed (.ctxSnapshot is0 (ctxF true)) snapping) 1 = some (ctx 1)
    ∧ regAt (fed (.ctxSnapshot is0 (ctxF true)) snapping) is0 1 % 2 ^ 24 = 1 := by and_intros <;> decide +kernel

theorem witness_ctx_goes : Goes (.ctxSnapshot is0 (ctxF false)) (ctxPlan true (ctxF false)) snapping
    ∧ Goes (.ctxSnapshot is0 (ctxF true)) (ctxPlan true (ctxF true)) snapping
    ∧ Goes (.ctxReset is0 (ctxF true)) (ctxPlan false (ctxF true)) snapping := by and_intros <;> decide +kernel

/-! ## Transfers -/

/-- A fill of the BACK part, which LOAD makes; STORE reads the FRONT part. -/
def back : XferF := { xfer0 with boff := 0x8000 }

theorem witness_copy : Goes (.load is0 back) (copyPlan .fill back) (run0 [(1, 0x4000#64)])
    ∧ Goes (.store is0 xfer0) (copyPlan .read xfer0) (run0 [(1, 0x4000#64)]) := by
  and_intros <;> decide +kernel

/-- Group 0 is OPEN for slot 0 in epoch 1 with floor -4. -/
def opened (t : Task) : VEng := { veng t with groups := [(0, ⟨.opened, 0, false, -4, 1, 1, 1, none⟩)], plaza := [(0, ⟨48, 0⟩)] }

def adding : XferF := { xfer0 with add := true }

theorem witness_xload : Goes (.xload is0 xfer0) (exactLoadPlan xfer0) (run0 [(1, 0x4000#64)])
    ∧ Goes (.xtload is0 adding) (exactLoadPlan adding) (with0 (opened (task [(1, 0x4000#64)]))) := by
  and_intros <;> decide +kernel

/-- A tile to store: an address in register 1, context 1 in register 3. -/
def storing : Plane := tensors (opened (task [(1, 0x4000#64), (3, 1#64)]))

def releasing : XferF := { xfer0 with rel := true }

theorem witness_xstore : Goes (.xstore is0 xfer0) (exactStorePlan true xfer0) storing
    ∧ Goes (.xtstore is0 releasing) (exactStorePlan true releasing) storing
    ∧ Goes (.xsend is0 releasing) (exactStorePlan false releasing) storing := by
  and_intros <;> decide +kernel

/-- Close count in register 1, context 1 in register 3. -/
def declaring : Plane := tensors (veng (task [(1, 1#64), (3, 1#64)]))

theorem witness_square : Goes (.square is0 xfer0) (squarePlan xfer0) declaring
    ∧ ctxGet (fed (.square is0 xfer0) declaring) (regAt (fed (.square is0 xfer0) declaring) is0 3 % 2 ^ 24) = some (ctx 1) :=
  ⟨goes (by decide +kernel), by decide +kernel⟩

/-! ## Streams and the Row Directory -/

/-- Gather from 0x8000, rows of 64 B, 4 rows, 8 indices at 0x7000; the pool is queue 7, the output queue 8; RESV is 1. -/
def gather : Nat :=
  1 * 2 ^ 238 + 4 * 2 ^ 148 + 8 * 2 ^ 384 + 0x7000 * 2 ^ 248 + 0x8000 * 2 ^ 300 + 7 * 2 ^ 203 + 8 * 2 ^ 211 + 2 ^ 196

/-- Stream 5 is IDLE; its context lies at 0x4000. -/
def starting : Plane := { run0 [(1, 0x4000#64), (2, 5#64)] with mem := memWrite 0 [] 0x4000 (toLE 64 gather) }

def startF : XferF := { xfer0 with creg := 2 }

theorem witness_stream_start : Goes (.streamStart is0 startF) (startPlan startF) starting
    ∧ ∀ r ∈ reqList (xferAddr (fed (.streamStart is0 startF) starting) is0 startF) 64,
        inWindow (fed (.streamStart is0 startF) starting) 0 r.1 r.2 = true := ⟨goes (by decide +kernel), by decide +kernel⟩

/-- The stream of engine 0 and slot 0 in epoch 1, ready with its reserved handle and a current one. -/
def streamOf (img : BitVec 512) (rows : Nat) : Stream :=
  { streamStarted img 0 0 1 with held := [handle, handle], ready := true, rows := rows, lim := 2 }

def installF : XferF := { startF with xreg := 3 }

theorem witness_rows :
    Goes (.rowInstall is0 installF) (installPlan installF) { starting with streams := [(5, streamOf (streamImage gather 0 0) 0)] }
    ∧ Goes (.rowEvict is0 installF) (evictPlan installF) (run0 [(3, 0xFFFFFFFF#64)]) := by
  and_intros <;> decide +kernel

/-! ## The Roundabout -/

/-- The only task of an engine that hosts one virtual engine is chosen as soon as it can issue. -/
theorem turn_alone {p : Plane} {i : Issue} (h : hostedOn p (homePort p i.veng.val) = [i.veng.val])
    (o : slotOrder p i.veng.val = [i.slot.val]) (r : slotReady p i.veng.val i.slot.val = true) : onTurn p i = true := by
  have hr : readySlot p i.veng.val = some (i.veng.val, i.slot.val) := by simp [readySlot, o, r]
  by_cases hc : (getPhys p (homePort p i.veng.val)).cur = i.veng.val
  · simp [onTurn, chosen, h, hc, hr]
  · have hn : i.veng.val ≠ (getPhys p (homePort p i.veng.val)).cur := fun e => hc e.symm
    simp [onTurn, chosen, h, hc, hn, hr]

/-- What `canIssue` asks, for a plan that a proof gives, of the one task of engine 0. -/
def fits (c : Instr) (p : Plane) (pl : Plan) : Bool :=
  reaches c p && !pl.ill && (firstHead pl.head).isNone && (holdFirst (holdsOf p (envOf p is0 0) pl)).isNone && !pl.gran
    && (ctxFault p (envOf p is0 0) pl).isNone && pl.check.isNone && issueAt p 0 0 == is0
    && hostedOn p (homePort p 0) == [0] && slotOrder p 0 == [0]

theorem goes_of {c : Instr} {plan : Plane → Env → Plan} {p : Plane} {pl : Plan} (hs : planFor (spelled c) = plan)
    (hp : plan (fed c p) (envOf (fed c p) is0 0) = pl) (h : fits c (fed c p) pl = true) : Goes c plan p := by
  simp only [fits, Bool.and_eq_true, Bool.not_eq_true', beq_iff_eq, Option.isNone_iff_eq_none] at h
  obtain ⟨⟨⟨⟨⟨⟨⟨⟨⟨hr, h1⟩, h2⟩, h3⟩, h4⟩, h5⟩, h6⟩, h7⟩, h8⟩, h9⟩ := h
  have r := reaches_of hr
  have w := r.word
  simp only [spells, Bool.and_eq_true, beq_iff_eq, decide_eq_true_eq] at w
  have t : slotReady (fed c p) 0 0 = true := by
    have pc : (envOf (fed c p) is0 0).t.regs.pc < ninsnOf (fed c p) 0 := r.pc
    simp only [slotReady, h7, r.gate, w.1.2, hs, hp, h1, h2, h3, pc, decide_true, Option.isNone_none, Bool.not_false,
      Bool.and_true, Bool.or_true]
  exact goes ((canIssue_iff ..).2 ⟨r.gate, r.pc, rfl, w.1.2, w.2, hp ▸ h1, r.guard, hp ▸ h2, hp ▸ h3, turn_alone h8 h9 t,
    hp ▸ h4, hp ▸ h5, hp ▸ h6⟩)

def rf : RingF := ⟨15, 1, 0, 2, 0, 128, 0, 3, 4⟩

/-- Every virtual engine gives RING four times 64 KiB in each half; the shard table at 0 is all zero bytes. -/
def ringPlane : Plane :=
  { plane with
    vengs := (List.range 64).map (fun v => (v, if v = 0 then { veng (task [(3, 63#64)]) with bufCfg := 0x010401 }
      else { VEng.init v with bufCfg := 0x010401 })) }

/-- Places in the RING part of either half; the first place of the buffer is in no RING part. -/
def place : RingPlace := ⟨BitVec.ofNat 16 (43 * 512), BitVec.ofNat 16 (2 ^ 15 + 43 * 512)⟩
def misplaced : RingPlace := ⟨0, 512⟩

def seq : Instr := .ringSeq is0 rf place

theorem seq_table : memAt (fed seq ringPlane) (ringAddr (envOf (fed seq ringPlane) is0 0) rf) tableBytes = zeros 1024 := by
  decide +kernel

/-- For the tables of a stop that reads one buffer of each half in every shard (log 15). -/
theorem witness_ring_seq (hr : ∀ k, Config.shardResident (zeros 1024) k = 131072)
    (hs : ∀ k, Config.shardStreamed (zeros 1024) k = 0) : Goes seq (seqPlan rf) ringPlane := by
  have hb : (List.range 64).all (fun v => decide (131072 + 3 * (2 * ringBuf) ≤ ringPartBytes (fed seq ringPlane) v)) = true := by
    decide +kernel
  have ho : seqOk (fed seq ringPlane) (zeros 1024) 2 = true := by
    have ht : tableOk (zeros 1024) = true := by simp [tableOk, hr, hs, ringBuf]
    simpa [seqOk, ht, hr] using hb
  have hl : lagOf rf = 2 := rfl
  refine goes_of (pl := { plan0 with flies := true, memTrk := true, tag := some 15 }) rfl ?_ (by decide +kernel)
  simp only [seqPlan, seq_table, hl, ho, if_true]
  rfl

theorem half_len {t : List Byte} (hr : Config.shardResident t 0 = 131072) (hs : Config.shardStreamed t 0 = 0) :
    halfLen t = 65536 := by simp [halfLen, hr, hs]

theorem witness_ring_places (hr : Config.shardResident (zeros 1024) 0 = 131072)
    (hs : Config.shardStreamed (zeros 1024) 0 = 0) :
    seqTable (fed seq ringPlane) is0 rf = zeros 1024
    ∧ placesFree (fed seq ringPlane) 0 place (zeros 1024) = true
    ∧ placesFree (fed seq ringPlane) 0 misplaced (zeros 1024) = false := by
  have hl := half_len hr hs
  refine ⟨seq_table, ?_, ?_⟩
  · simp only [placesFree, hl]
    decide +kernel
  · simp only [placesFree, hl]
    decide +kernel

/-- One buffer of a half at the stop, this many passed on and arrived. -/
def ringHalf (passed : Nat) : RingHalf := ⟨0, zeros 65536, [], passed, passed⟩

/-- A stop after turn 0, one buffer of each half passed on; one more of each has come. -/
def turn0 : RingSeq := ⟨0, 1, [], 1, 2, 0, ringHalf 1, ringHalf 1, false, false, false⟩

def turnPlane : Plane := with0 { veng (task []) with
  bufCfg := 0x010401
  ring := some turn0 }

def turn : Instr := .ringTurn is0 rf place

theorem witness_ring_turn : Goes turn turnPlan turnPlane := by
  have hx : (getV (fed turn turnPlane) (envOf (fed turn turnPlane) is0 0).v).ring = some turn0 := rfl
  have hr : turnReady turn0 = true := by
    simp only [turnReady, turn0, ringHalf, zeros, List.length_replicate]
    rfl
  have hs : seqLoading (fed turn turnPlane) (envOf (fed turn turnPlane) is0 0).v = false := rfl
  refine goes_of (pl := plan0) rfl ?_ (by decide +kernel)
  simp only [turnPlan, hx, hs, Option.map_some, hr, Option.getD_some, Bool.not_false, Bool.and_true, if_true]
  rfl

theorem witness_turn_places (hr : Config.shardResident [] 0 = 131072) (hs : Config.shardStreamed [] 0 = 0) :
    placesFree (fed turn turnPlane) 0 place turn0.table = true
    ∧ placesFree (fed turn turnPlane) 0 misplaced turn0.table = false ∧ turn0.halfBufs = halfBufsOf turn0.table := by
  have hl : halfLen turn0.table = 65536 := half_len hr hs
  refine ⟨?_, ?_, ?_⟩
  · simp only [placesFree, hl]
    decide +kernel
  · simp only [placesFree, hl]
    decide +kernel
  · show 1 = Config.shardResident [] 0 / (2 * ringBuf)
    rw [hr]
    rfl

def recvF : RingF := { rf with boff := 0x8000 }

theorem witness_ring_transfers : Goes (.ringSend is0 rf) (sendPlan rf) (run0 [(3, 63#64)])
    ∧ Goes (.ringMcast is0 rf) (sendPlan rf) (run0 [(3, 63#64)])
    ∧ (fed (.ringSend is0 rf) (run0 [(3, 63#64)])).ringRecvs = []
    ∧ Goes (.ringRecv is0 recvF) (recvPlan recvF) (run0 [(3, 63#64)])
    ∧ (fed (.ringRecv is0 recvF) (run0 [(3, 63#64)])).ringSends = [] := by and_intros <;> decide +kernel

/-! ## The array, the Plaza and the outputs -/

def ldw : LdwF := ⟨2, 0, 1, 1, false, 0, 0⟩

theorem witness_ldw : Goes (.ldw is0 ldw) (ldwPlan ldw) (tensors (veng (task []))) := goes (by decide +kernel)

/-- Weights of one column, for context 2 and granule 0. -/
def weights : WLoad := ⟨0, 2, 0, 1, false, [List.replicate 16 (.fin ⟨1, 0⟩)], true, false, [(0, 0)]⟩

/-- One granule of one row of context 1 into group 0, floor -4. -/
def mma (add : Bool) : MmaF := ⟨1, 2, 0, 1, add, 3, BitVec.ofInt 10 (-4), 0, 1, 0, 0, 0⟩

theorem witness_mma : Goes (.mma is0 (mma false)) (mmaPlan (mma false))
    (tensors { veng (task []) with shadow := some weights }) := goes (by decide +kernel)

/-- The groups that an adding instruction names are OPEN with its floor. -/
def sharing (p : Plane) (gs : List Nat) (fl : Int) : Bool :=
  gs.all (fun g => (getG (getV p 0) g).st == .opened && decide ((getG (getV p 0) g).f = fl))

theorem sharing_of {p : Plane} {gs : List Nat} {fl : Int} (h : sharing p gs fl = true) :
    ∀ g ∈ gs, (getG (getV p 0) g).st = .opened ∧ (getG (getV p 0) g).f = fl := by
  intro g hg
  have := List.all_eq_true.1 h g hg
  simpa using this

def mmaAdding : Plane := fed (.mma is0 (mma true)) (tensors { opened (task []) with active := some weights })

theorem witness_mma_add : Goes (.mma is0 (mma true)) (mmaPlan (mma true)) (tensors { opened (task []) with active := some weights })
    ∧ ∀ g ∈ mmaGroups (mma true), (getG (getV mmaAdding 0) g).st = .opened
      ∧ (getG (getV mmaAdding 0) g).f = (mmaFloor mmaAdding (envOf mmaAdding is0 0) (mma true)).1 :=
  ⟨goes (by decide +kernel), sharing_of (by decide +kernel)⟩

/-- Two rows of 16 elements of context 1; register 1 holds 1, 2 holds 16, 3 holds 2. -/
def redf (form : BitVec 2) (add dest : Bool) : RedF :=
  ⟨form, 1, 1, 0, 0, 2, 3, 0, 0, add, 3, BitVec.ofInt 10 (-4), 0, dest, 4, 5, 0, 15⟩

def redRegs : Sparse U64 := [(1, 1#64), (2, 16#64), (3, 2#64), (4, 0x100#64), (5, 0x101#64)]

theorem witness_sum : Goes (.redSum is0 (redf 0 false false)) (sumPlan (redf 0 false false)) (tensors (veng (task redRegs))) :=
  goes (by decide +kernel)

/-- The tensors, with group 0 OPEN. -/
def filled : Plane := tensors (opened (task redRegs))

def sumAdding : Plane := fed (.redSum is0 (redf 0 true false)) filled

theorem witness_sum_add : Goes (.redSum is0 (redf 0 true false)) (sumPlan (redf 0 true false)) filled
    ∧ ∀ g ∈ sumGroups (envOf sumAdding is0 0) (redf 0 true false), (getG (getV sumAdding 0) g).st = .opened
      ∧ (getG (getV sumAdding 0) g).f = (sumFloor sumAdding (envOf sumAdding is0 0) (redf 0 true false)).1 :=
  ⟨goes (by decide +kernel), sharing_of (by decide +kernel)⟩

def convf (dest : Bool) : ConvF := ⟨1, 0, 1, 16, false, 0, 0, 0, 0, 0, dest, 4, 0, 0, 15⟩

/-- All 32 elements of context 1. -/
def ewisef (dest : Bool) : EwiseF := ⟨0, 1, 1, 1, 0, 0, 0, 0, 0, 2, 0, 0, 0, 0, 0, dest, 4, 15⟩

/-- The rows of `outputRow`, with winners both final and partial. -/
def outputs (dest : Bool) : List Instr :=
  [.conv is0 (convf dest), .ewiseMov is0 (ewisef dest), .ewiseAdd is0 (ewisef dest), .ewiseSub is0 (ewisef dest),
    .ewiseMul is0 (ewisef dest), .redMax is0 (redf 0 false dest), .redMin is0 (redf 0 false dest),
    .redMax is0 (redf 3 false dest), .redMin is0 (redf 3 false dest)]

theorem output_row (dest : Bool) : ∀ c ∈ outputs dest, outputRow c = some (is0, dest, 15, planFor c) := by
  intro c hc
  simp only [outputs, List.mem_cons, List.not_mem_nil, or_false] at hc
  rcases hc with rfl | rfl | rfl | rfl | rfl | rfl | rfl | rfl | rfl <;> rfl

theorem not_held (c : Instr) (x : VEng) (id : Nat) : outHeld (fed c (tensors x)) 0 id = false := Bool.and_false _

/-- With DEST 1, and with DEST 0. -/
theorem witness_outputs : ∀ dest, ∀ c ∈ outputs dest, Goes c (planFor c) filled := by
  have h : ∀ dest, (outputs dest).all (fun c => canIssue c is0 (planFor c) 0 (fed c filled)) = true := by decide +kernel
  exact fun dest c hc => goes (List.all_eq_true.1 (h dest) c hc)

theorem none_hosted (p : Plane) (h : ∀ w, (getV p w).host = w) : NoneHosted p := by
  intro v
  simp only [isHosted, hostedOn, upTo, h, List.any_filter]
  rw [List.any_eq_false]
  intro w _
  by_cases hw : w = v <;> simp [hw]

theorem none_hosted0 (x : VEng) (p : Plane) (hp : p.vengs = [(0, x)]) (h : x.host = 0) : NoneHosted p := by
  apply none_hosted
  intro w
  show (spGetD p.vengs w (VEng.init w)).host = w
  rw [hp]
  by_cases hw : w = 0
  · subst hw
    exact h
  · simp [spGetD, spGet, hw, VEng.init]

theorem witness_outputs_near (c : Instr) : NoneHosted (fed c filled) := none_hosted0 _ _ rfl rfl

/-- An EWISE to the buffer has a line to write. -/
theorem witness_ewise_line : (ewiseOut (.ewiseMov is0 (ewisef false))
    (atIssue (fed (.ewiseMov is0 (ewisef false)) filled) is0 0 (ewisePlan true (ewisef false)))
    (envOf (fed (.ewiseMov is0 (ewisef false)) filled) is0 0)).isSome = true := by decide +kernel

/-- The update context: W 1, M 2, V 4, G 1, t = 5. -/
def uctx : Cx := BitVec.ofNat 1024 (2 ^ 16 + 5 * 2 ^ 448 + 1 * 2 ^ 480 + 2 * 2 ^ 504 + 4 * 2 ^ 528 + 1 * 2 ^ 552)

/-- Shape of 64 elements. -/
def shapeV : Nat := 0x6000 + 1 * 2 ^ 256 + 64 * 2 ^ 320

def updating : Plane :=
  { tensors (veng (task [(1, 5#64), (2, 8#64)])) with
    gaz := { Gaz.init with
      ways := [(1, ctx 1), (2, ctx 2), (4, ctx 4 + BitVec.ofNat 1024 (0x4000 * 2 ^ 64)), (8, uctx)], defined := [1, 2, 4, 8] }
    mem := memWrite 0 shapeMem 0x5000 (toLE 128 shapeV) }

def updf (uexp : BitVec 2) : UpdF := ⟨8, 1023, 1, uexp, false, false, 0, 0, 0, 2, 15⟩

theorem witness_upd : Goes (.updDiagonal is0 (updf 0)) (updPlan ⟨1⟩ false (updf 0)) updating
    ∧ Goes (.updBlockMatrix is0 (updf 2) .k4) (updPlan ⟨4⟩ false (updf 2)) updating
    ∧ Goes (.updBlockMatrix is0 (updf 2) .k8) (updPlan ⟨8⟩ false (updf 2)) updating
    ∧ ctxGet (fed (.updDiagonal is0 (updf 0)) updating) 8 = some uctx
    ∧ (getP (fed (.updDiagonal is0 (updf 0)) updating) 0).policy.hold = false := by and_intros <;> decide +kernel

/-! ## Collectives -/

/-- Group slot 0 is enabled for partition 0 with one ACTIVE member. -/
def gslot : BitVec 256 := BitVec.ofNat 256 (0xFFF * 2 ^ 87 + 2 ^ 60 + 2 ^ 99)

/-- Number 0xFFEF, context 1, one shard of 192 entries, a list of one entry at 0x4200. -/
def desc (op srck : Nat) : Nat :=
  op + srck * 2 ^ 12 + 0xFFEF * 2 ^ 16 + 1 * 2 ^ 32 + 1 * 2 ^ 71 + 192 * 2 ^ 160 + 192 * 2 ^ 224 + 1 * 2 ^ 416 + 0x4200 * 2 ^ 480

def coll (op srck : Nat) : Plane :=
  { tensors (opened (task [(1, 0x4000#64)])) with
    mem := memWrite 0 (memWrite 0 shapeMem 0x4000 (toLE 128 (desc op srck))) 0x4200 (toLE 8 1)
    gslots := [(0, gslot)] }

/-- The hypotheses on a COLL with this descriptor, but for its format. -/
def collects (c : Instr) (op srck : Nat) : Bool :=
  let p := fed c (coll op srck)
  canIssue c is0 (collPlan xfer0) 0 p && collRowOf c == some (op, is0, xfer0) && readDesc p (xferAddr p is0 xfer0) == desc op srck
    && dOp (desc op srck) == op && inWindow p 0 (xferAddr p is0 xfer0) 128 && !descBad p 0 (desc op srck)

/-- A tile, a gather from memory, a list. -/
theorem witness_coll : collects (.rsX is0 xfer0) 1 0 = true ∧ collects (.ag is0 xfer0) 3 2 = true
    ∧ collects (.maxx is0 xfer0) 12 0 = true := by and_intros <;> decide +kernel

theorem witness_coll_format : ctxGet (fed (.ag is0 xfer0) (coll 3 2)) (dCtx (desc 3 2)) = some (ctx 1)
    ∧ ctxFmt (ctx 1) = some .fp32 ∧ (fmtElem .fp32).isSome = true := by and_intros <;> decide +kernel

/-! ## Crossings and completions -/

/-- An instruction in flight of slot 0 of engine 0 in epoch 1, with tag 15. -/
def flying (fin : Finish) (failed : Bool) : Flight :=
  ⟨3, 0, 0, 0, 1, some 15, false, false, [], [], [], [], failed, [], fin⟩

def inFlight (fin : Finish) (failed : Bool) : Plane := { with0 (opened (task [])) with flights := [flying fin failed] }

/-- Engine 0 arrives; engine 63 has arrived. -/
def crossing : Crossing := ⟨2 ^ 63 + 1, 2 ^ 63 + 1, 2 ^ 63, false, 0, false⟩

def arriving (f : Flight) : Plane :=
  { run0 [] with
    flights := [f]
    cross := [(63, crossing)] }

def last : Flight := flying (.crossArrive 63) false

theorem witness_cross_complete : last ∈ (arriving last).flights ∧ last.veng = 0 ∧ last.finish = .crossArrive 63
    ∧ (∀ g ∈ (arriving last).flights, g.veng = 0 → g.finish = .crossArrive 63 → g = last)
    ∧ arriveReady (arriving last) 0 last.id = true ∧ (∀ k, (getT (arriving last) 0 k).failTags = 0)
    ∧ spGet (arriving last).cross 63 = some crossing :=
  ⟨by decide +kernel, rfl, rfl, by decide +kernel, by decide +kernel, no_failures (.halt is0) [], rfl⟩

theorem witness_cross_release (c : Crossing) (hc : c = { crossing with arrived := 2 ^ 63 + 1 }) :
    ({ plane with cross := [(63, c)] } : Plane).regs.state = .ready
    ∧ spGet ({ plane with cross := [(63, c)] } : Plane).cross 63 = some c ∧ c.released = false ∧ c.arrived = c.mask
    ∧ c.mask.getLsbD 0 = true := by
  subst hc
  and_intros <;> decide +kernel

/-- The instruction is found and may complete. -/
abbrev Completes (p : Plane) (f : Flight) : Prop := p.flights.find? (fun x => x.id == 3) = some f ∧ mayComplete p f = true

theorem witness_complete_plain :
    Completes (inFlight .plain false) (flying .plain false) ∧ Completes (inFlight .plain true) (flying .plain true)
    ∧ (getT (inFlight .plain true) 0 0).st = .active := by and_intros <;> decide +kernel

theorem witness_complete_load : Completes (inFlight (.load 0x4000 128 0 0x800) false) (flying (.load 0x4000 128 0 0x800) false)
    ∧ NoneHosted (inFlight (.load 0x4000 128 0 0x800) false) :=
  ⟨by decide +kernel, none_hosted0 _ _ rfl rfl⟩

/-- Square 0 of engine 0: GLOBAL_ID 9, one row from logical index 0, floor -4. -/
def sq : Square := ⟨.opened, 0, 1, 0, -4, 1, 9, 1, 0, 0, 1, 0, 0, 0⟩

def tallying : Plane :=
  { inFlight (.tally [(0, 192, 7)]) false with vengs := [(0, { veng (task []) with squares := [(0, sq)] })] }

theorem witness_complete_tally : Completes tallying (flying (.tally [(0, 192, 7)]) false)
    ∧ spGet (getV tallying 0).squares 0 = some sq := by and_intros <;> decide +kernel

/-- The first two elements share their floor. -/
theorem witness_complete_xload :
    Completes (inFlight (.xload false 0x4000 0 1 false) false) (flying (.xload false 0x4000 0 1 false) false)
    ∧ (xaf136Read (memAt (inFlight (.xload false 0x4000 0 1 false) false) 0x4018 24)).2
        = (xaf136Read (memAt (inFlight (.xload false 0x4000 0 1 false) false) 0x4000 24)).2 := by
  and_intros <;> decide +kernel

/-! ## Streams, the ring, mutual waits -/

/-- The gather stream with 7 of its 8 indices done; its current buffer holds two rows. -/
def gathering : Stream := streamOf (setFld (streamImage gather 0 0) 447 416 7) 0

/-- The last index names the last row. -/
def moving (x : Stream) : Plane :=
  { run0 [] with
    streams := [(5, x)]
    mem := memWrite 0 [] 0x701C [3]
    queues := [(7, ⟨0, true, [], 0, 0, 0⟩)] }

/-- What both clauses of StreamsMoveRows ask of the stream. -/
def streams (x : Stream) : Bool :=
  getS (moving x) 5 == x && (moving x).regs.state == .ready && sState x == 1 && !x.stopped && x.ready && current x == some handle
    && !bufFull x && decide (sDone x < sCount x) && decide (streamIndex (moving x) x < sRows x)

theorem witness_gather : streams gathering = true ∧ sKind gathering = 0
    ∧ streamBadReqs (moving gathering) gathering [] (sTable gathering (streamIndex (moving gathering) gathering))
        (sRowBytes gathering) = [] := by and_intros <;> decide +kernel

theorem witness_gather_near : NoneHosted (moving gathering) := none_hosted0 _ _ rfl rfl

/-- A gather through the Row Directory, whose row 3 is resident in engine 0. -/
def gatheringRd : Stream := { gathering with img := setFld gathering.img 193 191 1 }

theorem witness_gather_resident : streams gatheringRd = true ∧ sKind gatheringRd = 1
    ∧ (rdHit { moving gatheringRd with rowDir := [(3, 0x80000000#32)] }
        (sRowId gatheringRd (streamIndex (moving gatheringRd) gatheringRd))).isSome = true := by
  and_intros <;> decide +kernel

/-- The same as a scatter into memory, one row left in its buffer. -/
def scattering : Stream := { gathering with img := setFld gathering.img 193 191 3, rows := 1 }

theorem witness_scatter : streams scattering = true ∧ sKind scattering = 3 ∧ scattering.rows + 1 = scattering.lim
    ∧ (getP (moving scattering) (sPart scattering)).rollback = none
    ∧ streamBadReqs (moving scattering) scattering [] (sTable scattering (streamIndex (moving scattering) scattering))
        (24 * (sRowBytes scattering / 24)) = [] := by and_intros <;> decide +kernel

/-- A stop in turn 0 whose first buffer an LDW has read, and how many have arrived; lag limit 7. -/
def stop (arrived : Nat) (detached : Bool) : RingSeq :=
  ⟨0, 1, [], 1, 7, 0, ⟨0, zeros 65536, [0], arrived, 0⟩, halfInit 1, detached, false, false⟩

def passing (arrived : Nat) (detached : Bool) : Plane :=
  { plane with vengs := [(0, { VEng.init 0 with ring := some (stop arrived detached) }),
      (63, { VEng.init 63 with ring := some (stop 0 false) })] }

theorem may_pass : mayPass (passing 6 false) 63 (stop 0 false) false (turning (passing 6 false) 63) = true := by
  have hd : ringBuf ≤ (halfOf (stop 0 false) false).data.length := by
    simp only [halfOf, stop, zeros, Bool.false_eq_true, if_false, List.length_replicate]
    exact Nat.le_refl _
  simp only [mayPass, hd, decide_true]
  decide +kernel

/-- Even halves go from 63 to 0; a detached stop takes any number. -/
theorem witness_ring_pass : (getV (passing 6 false) 63).ring = some (stop 0 false)
    ∧ (getV (passing 6 false) (nextStop 63 false)).ring = some (stop 6 false) ∧ seqLoading (passing 6 false) 63 = false
    ∧ (stop 6 false).ended = false ∧ lagAt (stop 6 false) false + 1 ≤ (stop 6 false).lagLimit
    ∧ (getV (passing 9 true) (nextStop 63 false)).ring = some (stop 9 true) :=
  ⟨rfl, rfl, rfl, rfl, by decide, rfl⟩

def cycle : List CycleMember := [.stream 5, .task 0 0, .queue 7]

theorem witness_mutual_wait : (moving gathering).regs.state = .ready
    ∧ (getP (moving gathering) 0).defined = true ∧ cycleOk (moving gathering) 0 cycle = true
    ∧ dutyHw (moving gathering) 0 4 = true
    ∧ mwPick (moving gathering) ((cycleStreams cycle).filter (fun k =>
        (current (getS (moving gathering) k)).isSome && !hqFull (moving gathering) (sFree (getS (moving gathering) k)))) = some 5
    ∧ (getS (moving gathering) 5).held.getLast? = some handle
    ∧ mwEnd (moving gathering) (handleAt handle).veng + 128 * hUnits handle ≤ 4194304 := by and_intros <;> decide +kernel

/-- The partition with this duty host-assisted. -/
def assisted (d : Nat) (p : Plane) : Plane :=
  modP p 0 (fun x => { x with settings := { x.settings with duties := BitVec.ofNat 12 (2 ^ d) } })

theorem witness_mutual_wait_assisted : cycleOk (assisted 4 (moving gathering)) 0 cycle = true
    ∧ dutyHw (assisted 4 (moving gathering)) 0 4 = false := by and_intros <;> decide +kernel

/-! ## Packets and Squares -/

/-- Group slot 0: this Plane is rank 0; ranks 0 and 1 are ACTIVE. -/
def grouped (p : Plane) : Plane :=
  { p with
    gslots := [(0, gslot)]
    peers := [(0, BitVec.ofNat 256 (2 * 2 ^ 32)), (1, BitVec.ofNat 256 (1 + 2 * 2 ^ 32))] }

/-- The packet passes check 1 to 5 at group slot 0 of partition 0. -/
def passes (p : Plane) (port : Nat) (k : Packet) : Bool :=
  portUp p port && partOfRegion p (port / 2) == some 0 && (getP p 0).replay.isNone && check1 p port k fault0
    && slotFor p 0 k == some 0 && (earlyCheck p 0 0 k).isNone

theorem passes_of {p : Plane} {port : Nat} {k : Packet} (h : passes p port k = true) : Passes p port k fault0 0 0 := by
  simp only [passes, Bool.and_eq_true, beq_iff_eq, Option.isNone_iff_eq_none] at h
  exact ⟨h.1.1.1.1.1, h.1.1.1.1.2, h.1.1.1.2, h.1.1.2, h.1.2, h.2⟩

/-- Three entries for the end of the Square. -/
def entries : List Acc := [⟨1, 0⟩, ⟨-2, 1⟩, ⟨3, 0⟩]

def exact : Packet :=
  sealHdr { packet 0 with
    ver := 1
    epoch := 1
    globalId := 9
    offset := 189
    count := 3
    srcRank := 1
    dstRank := 0
    f := BitVec.ofInt 10 (-4)
    plen := BitVec.ofNat 15 (xaftGroups (-4) entries).length
    digest := BitVec.ofNat 64 (digestAccs 0 9 189 entries)
    payload := xaftGroups (-4) entries }

/-- The Square declared, its group in the Plaza. -/
def declared (s : Square) : Plane :=
  grouped (tensors { veng (task []) with
    squares := [(0, s)]
    groups := [(0, ⟨.square 0, 0, false, -4, 0, 0, 1, none⟩)] })

theorem witness_landing_passes : Passes (declared sq) 15 exact fault0 0 0 := passes_of (by decide +kernel)

theorem witness_landing_target : exact.ptype = 0 ∧ (getP (declared sq) 0).rollback = none
    ∧ exact.epoch.toNat ≤ running (declared sq) 0 ∧ squareFor (declared sq) 0 exact = some (0, 0, sq)
    ∧ squareAt (declared sq) 0 exact.epoch.toNat exact.globalId.toNat exact.offset.toNat = some (0, 0, sq)
    ∧ spGet (getV (declared sq) 0).squares 0 = some sq ∧ (ctxGet (declared sq) sq.ctx).isSome
    ∧ (declared sq).gaz.bad.contains sq.ctx = false ∧ (declared sq).heldRuns = [] := by and_intros <;> decide +kernel

theorem witness_landing_run : exact.plen.toNat = exact.payload.length ∧ exactOf exact = .entries entries ∧ 0 < entries.length
    ∧ digestAccs sq.dkey exact.globalId.toNat exact.offset.toNat entries = exact.digest.toNat
    ∧ exact.offset.toNat + entries.length ≤ squareEnd sq ∧ sq.st = .opened
    ∧ squareHere (declared sq) 0 sq exact.offset.toNat entries.length = true ∧ sq.f = exact.f.toInt
    ∧ sq.tally + inFlightTally (declared sq) 0 0 + entries.length ≤ sq.closeCnt * squareExtent sq := by
  and_intros <;> decide +kernel

/-- Every contribution counted; the claim is the digest of 192 zero entries, or is not. -/
def complete192 : Square := { sq with tally := 192, claim := digestAccs 0 9 0 (List.replicate 192 accZero) }

theorem witness_square_close :
    spGet (getV (declared complete192) 0).squares 0 = some complete192 ∧ partOf (declared complete192) 0 = some 0
    ∧ complete192.st = .opened ∧ complete192.tally = complete192.closeCnt * squareExtent complete192
    ∧ digestAccs complete192.dkey complete192.gid complete192.offset
        (squareAccs (getV (declared complete192) 0) complete192) = complete192.claim := by and_intros <;> decide +kernel

def wrong192 : Square := { sq with tally := 192, claim := 1 }

theorem witness_square_total : spGet (getV (declared wrong192) 0).squares 0 = some wrong192
    ∧ digestAccs 0 9 0 (squareAccs (getV (declared wrong192) 0) wrong192) ≠ wrong192.claim
    ∧ dutyHw (declared wrong192) 0 2 = true := by and_intros <;> decide +kernel

def sent : Sent := ⟨4, some 3, 0, 0, 1, 7, 0, 32, 1, 0⟩

def ack : Packet := sealHdr { packet 0 with ptype := 8, epoch := 1, cid := 7, count := 32, srcRank := 1 }

/-- An all-gather of 32 items from memory, number 7. -/
def collOf3 : Coll :=
  { id := 3, flight := 3, veng := 0, slot := 0, part := 0, epoch := 1, op := 3, gslot := 0, cid := 7, ctx := 1,
    fmt := some .fp32, gid := 9, key := 0, key0 := 0, rel := false, srck := 2, base := 0, m := 0, offset := 0, count := 64,
    shard := 32, root := 0, src := 0, dst := 0, list := [], outs := [], level := 0, result := [], got := [], placed := 0,
    done := false, spread := false, dout := 0 }

def waiting : Plane := { grouped (inFlight (.coll 3) false) with sent := [sent], colls := [collOf3] }

theorem only0 (p : Plane) (x : Part) (h : p.parts = [(0, x)]) (hx : x.rollback = none) (j : Nat) : (getP p j).rollback = none := by
  show (spGetD p.parts j (Part.init j)).rollback = none
  rw [h]
  by_cases hj : j = 0
  · subst hj
    exact hx
  · simp [spGetD, spGet, hj, Part.init]

theorem witness_ack : Passes waiting 0 ack fault0 0 0 ∧ ack.ptype = 8 ∧ ack.outcome = 0
    ∧ waiting.sent.find? (ackMatches 0 0 ack) = some sent ∧ ∀ j, (getP waiting j).rollback = none :=
  ⟨passes_of (by decide +kernel), by decide +kernel, by decide +kernel, by decide +kernel, only0 _ _ rfl rfl⟩

theorem witness_timeout : waiting.sent.find? (fun y => y.id == 4) = some sent ∧ sent.coll = some 3
    ∧ getColl waiting 3 = some collOf3 := by and_intros <;> decide +kernel

/-! ## Contexts and groups in memory -/

def paging (m : Mem) : Plane := { plane with gaz := { Gaz.init with paging := [7] }, mem := m }

/-- The backing copy of context 7 with its CRC. -/
def backed : Mem := memWrite 0 [] (128 * 7) (ctxSealed128 (ctx 7))

theorem witness_page_in : (paging backed).gaz.paging.contains (7#24).toNat = true ∧ pageOut (paging backed) 7 = false
    ∧ (ctxBacking (paging backed) 7).isSome = true ∧ (setMates (paging backed) 7).length < 16
    ∧ pageOut (paging []) 7 = false ∧ ctxBacking (paging []) 7 = none := by and_intros <;> decide +kernel

def spilling (spl : Bool) (dest : Option Nat) : Plane :=
  with0 { VEng.init 0 with groups := [(79, ⟨.opened, 0, spl, -4, 0, 0, 1, none⟩)], moveTo := dest }

theorem witness_spill : partOf (spilling false (some 9)) 0 = some 0 ∧ spillWanted (spilling false (some 9)) 0 = true
    ∧ (getG (getV (spilling false (some 9)) 0) 79).st ≠ .free ∧ (getG (getV (spilling false (some 9)) 0) 79).spl = false
    ∧ groupInUse (spilling false (some 9)) 0 79 = false := by and_intros <;> decide +kernel

theorem none_failed (a n : Nat) : failedReqs [] a n = [] := by simp [failedReqs]

theorem witness_restore : (getG (getV (spilling true none) 0) 79).spl = true ∧ (getV (spilling true none) 0).moveTo = none
    ∧ groupFreeFor (spilling true none) 0 79 = true ∧ spillOut (spilling true none) 0 = false
    ∧ failedReqs [] (groupAddr (spilling true none) 0 79) 73792 = [] :=
  ⟨by decide +kernel, by decide +kernel, by decide +kernel, by decide +kernel, none_failed _ _⟩

/-! ## Milestones and seals -/

/-- Partition 0 with one epoch under way and no task; the epoch has closed. -/
def epoch (f : EpRec → EpRec) (g : Part → Part) : Plane :=
  modP (modP plane 0 (fun x => { x with lastClosed := 1, epochs := [f (epInit 1)] })) 0 g

def closing : Plane := epoch (fun e => { e with implicitClose := true }) id

theorem witness_implicit_close : closing.regs.state = .ready ∧ 1 = (getP closing 0).committed + 1
    ∧ (epGet (getP closing 0) 1).implicitClose = true ∧ (epGet (getP closing 0) 1).phase = .running
    ∧ (epGet (getP closing 0) 1).arrived.toNat ≠ vmaskOf closing 0 ∧ (getP closing 0).rollback = none
    ∧ epochBusy closing 0 1 = false ∧ ∀ v ∈ partVengs closing 0, flowsDone closing v 1 = true := by
  and_intros <;> decide +kernel

theorem witness_seal_release : (epoch id id).regs.state = .ready ∧ releasable (epoch id id) 0 = true := by
  and_intros <;> decide +kernel

def fencing : Plane := epoch (fun e => { e with phase := .fencing }) id

theorem witness_form : (epGet (getP fencing 0) 1).phase = .fencing ∧ countsOut fencing 0 1 = false
    ∧ (getP fencing 0).rollback = none
    ∧ (getP fencing 0).halted = none ∧ noneStopped fencing 0 = true ∧ fencesOut fencing 0 1 = false
    ∧ replicaGroup fencing 0 = none := by and_intros <;> decide +kernel

def summary0 : Summary := ⟨[0], 0, [], [], [], [], [], []⟩

/-- The seal group has this Plane as its only member, and its summary is there. -/
def merging : Plane :=
  { epoch (fun e => { e with phase := .formed, got := [(gotKey 0 0, summary0)] })
      (fun x => { x with policy := { x.policy with sealSlot := some 0 } }) with
    gslots := [(0, gslot)]
    peers := [(0, BitVec.ofNat 256 (2 * 2 ^ 32))] }

theorem witness_merge : (getP merging 0).rollback = none ∧ dutyHw merging 0 3 = true
    ∧ (epGet (getP merging 0) 1).verdict = none ∧ sealChain merging 0 = [0] ∧ isAggregator merging 0 = true
    ∧ (epGet (getP merging 0) 1).merged.contains 0 = false
    ∧ allSummaries merging (epGet (getP merging 0) 1) 0 = some [summary0] := by and_intros <;> decide +kernel

def verified : Plane := epoch (fun e => { e with phase := .formed, verdict := some true }) id

theorem witness_verdict : (getP verified 0).rollback = none ∧ (epGet (getP verified 0) 1).verdict = some true
    ∧ (epGet (getP verified 0) 1).taken = false ∧ (epGet (getP verified 0) 1).phase = .formed
    ∧ (getP verified 0).policy.hold = false ∧ sealChain verified 0 = [] ∧ fencesOut verified 0 1 = false
    ∧ (getP verified 0).replay = none := by and_intros <;> decide +kernel

def rb : Rollback := ⟨1, 1, 1, true, [], true, false, [], 0⟩

def restarting : Plane := grouped (epoch id (fun x => { x with rollback := some rb }))

theorem witness_ready : (getP restarting (gPart (getSlot restarting 0))).rollback = some rb ∧ rb.restored = true
    ∧ rb.sentReady = true ∧ (getP restarting (gPart (getSlot restarting 0))).replay = none
    ∧ ∃ k ∈ readyPeers restarting (gPart (getSlot restarting 0)), k ≠ (0, 2) ∧ k ∉ rb.got :=
  ⟨by decide +kernel, rfl, rfl, by decide +kernel, (0, 1), by decide +kernel, by decide, by decide⟩

/-! ## Stalls -/

theorem witness_cross_stall : spGet (arriving last).cross 63 = some crossing ∧ crossing.released = false
    ∧ crossing.recorded = false ∧ (arriving last).regs.state = .ready := by and_intros <;> decide +kernel

/-- An XSTORE that waits for the Square of its group. -/
def reading : Plane := fed (.xstore is0 xfer0) (declared sq)

theorem witness_square_stall : reading.regs.state = .ready ∧ partOf reading 0 = some 0 ∧ (getT reading 0 0).st = .active
    ∧ (getT reading 0 0).stallRec = false ∧ waitedSquare reading 0 0 0 = some (0, sq) := by and_intros <;> decide +kernel

def heldRun : HeldRun := ⟨9, 0, 1, 9, 0, entries, -4, .packet 0 7 1, none, 0, false, []⟩

theorem witness_undeclared : ({ plane with heldRuns := [heldRun] } : Plane).heldRuns.find? (fun x => x.id == 9) = some heldRun
    ∧ heldRun.recorded = false := by decide +kernel

def lagging : Plane := assisted 5 (passing 7 false)

theorem witness_lag : lagging.regs.state = .ready ∧ (getV lagging 0).ring = some (stop 7 false) ∧ partOf lagging 0 = some 0
    ∧ (stop 7 false).ended = false ∧ (stop 7 false).detached = false ∧ (stop 7 false).lagRec = false
    ∧ dutyHw lagging 0 5 = false ∧ (stop 7 false).lagLimit ≤ lagAt (stop 7 false) false ∧ lagging.ringSends = [] :=
  ⟨rfl, rfl, by decide +kernel, rfl, rfl, rfl, by decide +kernel, by decide, rfl⟩

/-- Two multicast buffers wait for engine 0, which has no sequence: its limit is 2. -/
def mcastSend : RingSend := ⟨3, 1, 0, 0, [1], true, false⟩
def lagging2 : Plane := assisted 5 { plane with ringSends := [mcastSend, mcastSend] }

theorem witness_mcast_lag : lagging2.regs.state = .ready ∧ partOf lagging2 0 = some 0 ∧ dutyHw lagging2 0 5 = false
    ∧ (getV lagging2 0).ring = none
    ∧ lagging2.ringSends.find? (fun y => y.mcast && y.dst == 0) = some mcastSend ∧ mcastSend.lagRec = false
    ∧ mcastLimit lagging2 0 ≤ mcastLag lagging2 0 := by and_intros <;> decide +kernel

def formed : Plane := epoch (fun e => { e with phase := .formed }) id

theorem witness_seal_stall : (epGet (getP formed 0) 1).phase = .formed ∧ (epGet (getP formed 0) 1).verdict = none
    ∧ (epGet (getP formed 0) 1).stallRec = false ∧ (getP formed 0).rollback = none ∧ dutyHw formed 0 3 = true := by
  and_intros <;> decide +kernel

def holding : Plane := epoch (fun e => { e with heldWait := [(3, 0x4000, [1])] }) id

theorem witness_hold_full : heldEpochs holding 0 = [1] ∧ (epGet (getP holding 0) 1).holdFullRec = false := by
  and_intros <;> decide +kernel

theorem witness_restart_stall : (getP restarting 0).rollback = some rb ∧ rb.restored = true ∧ rb.stallRec = false := by
  and_intros <;> decide +kernel
/-! ## Verbs -/

/-- Session 5, of partition 0, is a management session. -/
def session : Session := ⟨0, true, 100, 77, false⟩

/-- Mailbox 63 of session 5 holds one request: header and words. -/
def asks (h : Nat) (w : List Nat) (p : Plane) : Plane :=
  { p with
    mbx := [(63, { Mbx.init with
      reqTail := 1
      isOpen := true
      session := 5 })]
    mbxMem := memWrite 0 [] (reqSlot 63 0) (toLE 8 h ++ w.flatMap (toLE 8))
    sessions := [(5, session)] }

/-- The request as firmware reads it. -/
def req (h : Nat) (w : List Nat) : Req := reqOfWords h ((List.range 7).map (fun k => w.getD k 0))

def calls (row : VerbRow) (h : Nat) (w : List Nat) (p : Plane) : Bool :=
  (rowReq (asks h w p) 63 row == some (req h w)) && ((asks h w p).regs.state == .ready)
    && (txnError (asks h w p) 63 (req h w) row.txn).isNone

theorem called {row : VerbRow} {h : Nat} {w : List Nat} {p : Plane} (c : calls row h w p = true) :
    Called (asks h w p) 63 row (req h w) session := by
  simp only [calls, Bool.and_eq_true, beq_iff_eq, Option.isNone_iff_eq_none] at c
  exact ⟨c.1.1, rfl, c.1.2, fun _ => rfl, c.2⟩

theorem ok_of {α : Type} {e : Except Nat α} (h : e.toBool = true) : ∃ t, e = .ok t := by
  cases e with
  | ok t => exact ⟨t, rfl⟩
  | error _ => exact nomatch h

/-! ### Sessions -/

/-- The mailbox of the request is not open. -/
def closedMbx (p : Plane) : Plane := modM p 63 (fun x => { x with isOpen := false })

def opens : Plane := closedMbx (asks 0x01 [100 * 2 ^ 32] plane)

theorem witness_open : rowReq opens 63 openRow = some (req 0x01 [100 * 2 ^ 32]) ∧ (getM opens 63).isOpen = false
    ∧ (req 0x01 [100 * 2 ^ 32]).inTxn = false ∧ bit ((req 0x01 [100 * 2 ^ 32]).arg 0) 8 = false
    ∧ (getP opens (argOf (req 0x01 [100 * 2 ^ 32]) 0 2 0)).defined = true ∧ freeSession opens = some 0 := by decide +kernel

def joins : Plane := closedMbx (asks 0x01 [2 ^ 8 + 5 * 2 ^ 16, 77] plane)

theorem witness_join : rowReq joins 63 openRow = some (req 0x01 [2 ^ 8 + 5 * 2 ^ 16, 77]) ∧ (getM joins 63).isOpen = false
    ∧ (req 0x01 [2 ^ 8 + 5 * 2 ^ 16, 77]).inTxn = false ∧ bit ((req 0x01 [2 ^ 8 + 5 * 2 ^ 16, 77]).arg 0) 8 = true
    ∧ spGet joins.sessions (argOf (req 0x01 [2 ^ 8 + 5 * 2 ^ 16, 77]) 0 21 16) = some session
    ∧ session.cookie.toNat = argOf (req 0x01 [2 ^ 8 + 5 * 2 ^ 16, 77]) 1 31 0 := by decide +kernel

theorem witness_close : Called (asks 0x02 [] plane) 63 closeRow (req 0x02 []) session
    ∧ sessionMbxs (asks 0x02 [] plane) (sid (asks 0x02 [] plane) 63) = [63]
    ∧ (getM (asks 0x02 [] plane) 63).reqTail = (getM (asks 0x02 [] plane) 63).reqHead + 1 :=
  ⟨called (by decide +kernel), by and_intros <;> decide +kernel⟩

theorem witness_detach : spGet (asks 0x02 [] plane).sessions 5 = some session ∧ session.lease ≠ 0 ∧ session.closing = false
    ∧ mbxServed (asks 0x02 [] plane) = true := by decide +kernel

/-- Session 5 is closing and has answered its requests; this task of it still runs, or none. -/
def closingOf (p : Plane) : Plane :=
  { p with
    mbx := [(63, { Mbx.init with
      isOpen := true
      session := 5
      closeTail := some 0 })]
    sessions := [(5, { session with closing := true })] }

def tasked : Plane := closingOf (with0 (veng { task [] with session := 5 }))

theorem witness_session_end : (∀ m ∈ sessionMbxs tasked 5, (getM tasked m).exec = none
      ∧ (getM tasked m).closeTail = some (getM tasked m).reqHead) ∧ sessionTasks tasked 5 = true
    ∧ (∀ m ∈ sessionMbxs (closingOf plane) 5, (getM (closingOf plane) m).exec = none
      ∧ (getM (closingOf plane) m).closeTail = some (getM (closingOf plane) m).reqHead)
    ∧ sessionTasks (closingOf plane) 5 = false ∧ spRising (closingOf plane).mbx = true := by and_intros <;> decide +kernel

/-! ### Partitions and contexts -/

/-- Partition 0 with all regions, all rows and the whole memory. -/
def partWords : List Nat := [0xFF * 2 ^ 8 + 16 * 2 ^ 24, winWhole.toNat, 0, 0, 0]

theorem witness_partition : Called (asks 0x03 partWords plane) 63 partRow (req 0x03 partWords) session
    ∧ argOf (req 0x03 partWords) 0 15 8 ≠ 0 ∧ 64 * argOf (req 0x03 partWords) 0 28 24 ≤ 1024
    ∧ (∀ n ∈ [1, 2, 3, 4], windowOk ((req 0x03 partWords).arg n) = true)
    ∧ partBusy (asks 0x03 partWords plane) 0 = false
    ∧ regionsTaken (asks 0x03 partWords plane) 0 (argOf (req 0x03 partWords) 0 15 8) = false
    ∧ coefTotal (asks 0x03 partWords plane) 0 (64 * argOf (req 0x03 partWords) 0 28 24) ≤ 1024 :=
  ⟨called (by decide +kernel), by and_intros <;> decide +kernel⟩

/-- Words 0 to 3, 7 and 12, or 1 and 15 to 17, are supplied. -/
def convWords : List Nat := [0xFFFFFF + 0x108F * 2 ^ 32, 0x3000]
def updWords : List Nat := [0xFFFFFF + 2 ^ 24 + 0x38002 * 2 ^ 32, 0x3000]

/-- Sealed-class contexts 1 to 4 of partition 0, and an image of each kind at 0x3000. -/
def defining (img : Cx) : Plane :=
  { plane with
    gaz := { Gaz.init with
      ways := (List.range 4).map (fun k => (k + 1, setFld (ctx (k + 1)) 20 20 1))
      defined := [1, 2, 3, 4] }
    mem := memWrite 0 shapeMem 0x3000 (toLE 128 img.toNat) }

/-- Every hypothesis of the clause on CTX_DEFINE, as one check. -/
def definable (upd : Bool) (row : VerbRow) (w : List Nat) (img : Cx) : Bool :=
  let p := asks 0x10 w (defining img)
  let r := req 0x10 w
  let c := callOf p 63 r session []
  let y := defImage (argOf r 0 23 0) upd (BitVec.ofNat 32 (argOf r 0 63 32)) (BitVec.ofNat 1024 (memNatAt p (argOf r 1 51 0) 128))
    (definedCtx p (argOf r 0 23 0)) 0 (sid p 63)
  calls row 0x10 w (defining img) && !r.inTxn && !ctxForeign c p (argOf r 0 23 0) && !otherKind p (argOf r 0 23 0) upd
    && !ctxNamed p 0 (argOf r 0 23 0) && alignedTo (argOf r 1 51 0) 128 && c.accessOk p (argOf r 1 51 0) 128
    && needOk upd (BitVec.ofNat 32 (argOf r 0 63 32))
    && (if upd then updStatus p y else convStatus p 0 [] y) == 0 && !pinFull p (argOf r 0 23 0) y && !ctxPin y

def uctx2 : Cx := BitVec.ofNat 1024 (1 * 2 ^ 480 + 2 * 2 ^ 504 + 3 * 2 ^ 528 + 4 * 2 ^ 552)

theorem witness_define : definable false convRow convWords (ctx 1) = true ∧ argOf (req 0x10 convWords) 0 25 24 ≠ 3
    ∧ definable true updRow updWords uctx2 = true := by decide +kernel

/-- Context 1 of session 5. -/
def owned : Plane :=
  { plane with gaz := { Gaz.init with
      ways := [(1, setFld (ctx 1) 29 24 5)]
      defined := [1] } }

def relWords : List Nat := [1 + 2 * 2 ^ 24]

theorem witness_release : Called (asks 0x10 relWords owned) 63 relRow (req 0x10 relWords) session
    ∧ (req 0x10 relWords).inTxn = false
    ∧ ctxForeign (callOf (asks 0x10 relWords owned) 63 (req 0x10 relWords) session []) (asks 0x10 relWords owned) 1 = false
    ∧ ctxNamed (asks 0x10 relWords owned) 0 1 = false ∧ onLists (asks 0x10 relWords owned) 0 1 = []
    ∧ argOf (req 0x10 relWords) 0 23 0 = 1 :=
  ⟨called (by decide +kernel), by and_intros <;> decide +kernel⟩

/-- No access of a verb fails. -/
theorem witness_backing (p : Plane) (id : Nat) : failedReqs [] (backAddr p id) 128 = [] := none_failed _ _

/-! ### Settings -/

/-- Mailbox 63 has begun transaction 1. -/
def begun1 (l : List Staged) (p : Plane) : Plane := { p with txns := [(1, ⟨63, 5, 0, l, none⟩)] }

/-- A header with IN_TXN and transaction 1. -/
def inTxn (verb : Nat) : Nat := verb + 2 ^ 8 + 2 ^ 32

theorem has_room (h : Nat) (w : List Nat) (l : List Staged) (n : Nat) (hn : l.length + n ≤ 4096) (ht : (req h w).inTxn = true)
    (hx : (req h w).txn = 1) : HasRoom (asks h w (begun1 l plane)) 63 (req h w) n := by
  refine ⟨ht, fun t hg _ => ?_⟩
  rw [hx] at hg
  have : t = ⟨63, 5, 0, l, none⟩ := (Option.some.inj hg).symm
  subst this
  exact hn

/-- The last entries of a table. -/
def tableWords (t first : Nat) : List Nat := [t + first * 2 ^ 16 + 1 * 2 ^ 32, 0x4000]

def loads (row : VerbRow) (t first size limit : Nat) : Bool :=
  let p := asks (inTxn 0x11) (tableWords t first) (begun1 [] plane)
  let r := req (inTxn 0x11) (tableWords t first)
  calls row (inTxn 0x11) (tableWords t first) (begun1 [] plane) && decide (argOf r 1 51 0 % 16 = 0)
    && decide (argOf r 0 47 32 ≠ 0) && decide (argOf r 0 31 16 + argOf r 0 47 32 ≤ limit)
    && (callOf p 63 r session []).accessOk p (argOf r 1 51 0) (size * argOf r 0 47 32)
    && actOk p 0x4000 && rowOk p 0x4000

theorem witness_tables : loads actRow 0 15 3088 16 = true ∧ loads scaleRow 1 255 4 256 = true
    ∧ loads coefVerb 2 1023 64 1024 = true := by decide +kernel

theorem witness_table_room : HasRoom (asks (inTxn 0x11) (tableWords 1 255) (begun1 [] plane)) 63
    (req (inTxn 0x11) (tableWords 1 255)) 1 := has_room _ _ _ _ (by decide) (by decide +kernel) (by decide +kernel)

theorem witness_duty : Called (asks (inTxn 0x12) [9 + 2 ^ 8] (begun1 [] plane)) 63 dutyRow (req (inTxn 0x12) [9 + 2 ^ 8]) session
    ∧ HasRoom (asks (inTxn 0x12) [9 + 2 ^ 8] (begun1 [] plane)) 63 (req (inTxn 0x12) [9 + 2 ^ 8]) 1
    ∧ argOf (req (inTxn 0x12) [9 + 2 ^ 8]) 0 3 0 = 9
    ∧ isMgmt (asks (inTxn 0x12) [9 + 2 ^ 8] (begun1 [] plane)) (sid (asks (inTxn 0x12) [9 + 2 ^ 8] (begun1 [] plane)) 63) = true :=
  ⟨called (by decide +kernel), has_room _ _ _ _ (by decide) (by decide +kernel) (by decide +kernel), by decide +kernel,
    by decide +kernel⟩

theorem witness_key : Called (asks (inTxn 0x16) [15 * 2 ^ 8, 7] (begun1 [] plane)) 63 keyRow (req (inTxn 0x16) [15 * 2 ^ 8, 7]) session
    ∧ HasRoom (asks (inTxn 0x16) [15 * 2 ^ 8, 7] (begun1 [] plane)) 63 (req (inTxn 0x16) [15 * 2 ^ 8, 7]) 1
    ∧ Called (asks 0x16 [15 * 2 ^ 8, 7] plane) 63 keyRow (req 0x16 [15 * 2 ^ 8, 7]) session
    ∧ (req 0x16 [15 * 2 ^ 8, 7]).inTxn = false ∧ allFree (asks 0x16 [15 * 2 ^ 8, 7] plane) 0 = true :=
  ⟨called (by decide +kernel), has_room _ _ _ _ (by decide) (by decide +kernel) (by decide +kernel), called (by decide +kernel),
    by and_intros <;> decide +kernel⟩

theorem witness_begin : Called (asks 0x13 [] plane) 63 beginRow (req 0x13 []) session
    ∧ (asks 0x13 [] plane).txns.length < 64 ∧ ((asks 0x13 [] plane).txns.filter (fun t => t.2.mbx == 63)).length < 8 :=
  ⟨called (by decide +kernel), by and_intros <;> decide +kernel⟩

def commits (w : List Nat) (p : Plane) : Plane := asks (inTxn 0x14 - 2 ^ 8) w (begun1 [.scale 255 7] p)

theorem witness_commit_at : Called (commits [1 + 2 * 2 ^ 16] plane) 63 commitTxnRow (req (inTxn 0x14 - 2 ^ 8) [1 + 2 * 2 ^ 16]) session
    ∧ spGet (commits [1 + 2 * 2 ^ 16] plane).txns (req (inTxn 0x14 - 2 ^ 8) [1 + 2 * 2 ^ 16]).txn
        = some ⟨63, 5, 0, [.scale 255 7], none⟩
    ∧ (getP (commits [1 + 2 * 2 ^ 16] plane) 0).journal.length
        + ((commits [1 + 2 * 2 ^ 16] plane).txns.filter (fun t => t.2.part == 0 && t.2.commit.isSome)).length < 64
    ∧ bit ((req (inTxn 0x14 - 2 ^ 8) [1 + 2 * 2 ^ 16]).arg 0) 0 = true
    ∧ sealReleased (getP (commits [1 + 2 * 2 ^ 16] plane) 0) (argOf (req (inTxn 0x14 - 2 ^ 8) [1 + 2 * 2 ^ 16]) 0 63 16 - 1) = false :=
  ⟨called (by decide +kernel), by and_intros <;> decide +kernel⟩

theorem witness_commit_now : Called (commits [0] plane) 63 commitTxnRow (req (inTxn 0x14 - 2 ^ 8) [0]) session
    ∧ bit ((req (inTxn 0x14 - 2 ^ 8) [0]).arg 0) 0 = false ∧ allFree (commits [0] plane) 0 = true
    ∧ Called (commits [0] (run0 [])) 63 commitTxnRow (req (inTxn 0x14 - 2 ^ 8) [0]) session
    ∧ allFree (commits [0] (run0 [])) 0 = false :=
  ⟨called (by decide +kernel), by decide +kernel, by decide +kernel, called (by decide +kernel), by decide +kernel⟩

theorem witness_abort : Called (asks (0x15 + 2 ^ 32) [] (begun1 [] plane)) 63 abortRow (req (0x15 + 2 ^ 32) []) session
    ∧ spGet (asks (0x15 + 2 ^ 32) [] (begun1 [] plane)).txns (req (0x15 + 2 ^ 32) []).txn = some ⟨63, 5, 0, [], none⟩ :=
  ⟨called (by decide +kernel), by decide +kernel⟩

/-! ### Programs, tasks, peers -/

/-- Engine 63 and queue 255, at 0x4000: 2^20 instructions, every part of the buffer. -/
def progWords : List Nat := [2 ^ 63, 0x4000]

def image : Plane :=
  { plane with
    mem := memWrite 0 [] 0x4000 (toLE 128 (1 + 2 ^ 20 * 2 ^ 32 + 0x0F1010 * 2 ^ 64 + 8 * 2 ^ 96 + 2 ^ 255 * 2 ^ 640)) }

theorem witness_program : calls progRow 0x20 progWords image = true
    ∧ (callOf (asks 0x20 progWords image) 63 (req 0x20 progWords) session []).accessOk (asks 0x20 progWords image) 0x4000 128 = true
    ∧ argOf (req 0x20 progWords) 1 51 0 = 0x4000 ∧ (progHdr (asks 0x20 progWords image) 0x4000).ver = 1
    ∧ (progHdr (asks 0x20 progWords image) 0x4000).ninsn = 2 ^ 20 ∧ (progHdr (asks 0x20 progWords image) 0x4000).nrange = 8
    ∧ bufCfgOk (progHdr (asks 0x20 progWords image) 0x4000).cfg = true
    ∧ progForeign (asks 0x20 progWords image) 0 (upTo 64 (fun v => bit ((req 0x20 progWords).arg 0) v))
        (claimed (progHdr (asks 0x20 progWords image) 0x4000)) = false
    ∧ progBusy (asks 0x20 progWords image) (upTo 64 (fun v => bit ((req 0x20 progWords).arg 0) v)) = false := by decide +kernel

/-- Any free slot of engine 0, at the last instruction. -/
def startWords : List Nat := [2 ^ 12 + 99 * 2 ^ 32, 1, 2, 3, 4, 5, 6]

theorem witness_start : calls startRow 0x21 startWords (run0 []) = true
    ∧ (∃ k, startCheck (req 0x21 startWords).w 0 (asks 0x21 startWords (run0 [])) = .ok k)
    ∧ (getPhys (asks 0x21 startWords (run0 []))
        (homePort (asks 0x21 startWords (run0 [])) (argOf (req 0x21 startWords) 0 5 0))).power = .active :=
  ⟨by decide +kernel, ok_of (by decide +kernel), by decide +kernel⟩

/-- Slot 15 is free; slot 0 belongs to session 5. -/
def stopping : Plane := with0 (veng { task [] with session := 5 })

theorem witness_stop : calls stopRow 0x22 [15 * 2 ^ 8] stopping = true
    ∧ (getT (asks 0x22 [15 * 2 ^ 8] stopping) 0 15).st = .free ∧ partOf (asks 0x22 [15 * 2 ^ 8] stopping) 0 = some 0
    ∧ calls stopRow 0x22 [0] stopping = true ∧ (getT (asks 0x22 [0] stopping) 0 0).st ≠ .free
    ∧ (getT (asks 0x22 [0] stopping) 0 0).session = sid (asks 0x22 [0] stopping) 63 := by decide +kernel

/-- Slot 15: a new descriptor, and one record that names entry 4,095. -/
def peerWords : List Nat := [15 + 2 ^ 4 + 1 * 2 ^ 16, 0x4000, 7 + 2 ^ 31]

def peering : Plane := { plane with mem := memWrite 0 [] 0x4000 (toLE 16 (0xFFF + 0xFFFFF * 2 ^ 32)) }

def peered : Plane := asks 0x30 peerWords peering

theorem witness_peer : calls peerRow 0x30 peerWords peering = true
    ∧ gEn (getSlot peered 15) = false ∧ argOf (req 0x30 peerWords) 2 25 24 ≠ 3
    ∧ descFree peered 0 15 ((req 0x30 peerWords).arg 2) = true
    ∧ (callOf peered 63 (req 0x30 peerWords) session []).accessOk peered 0x4000 16 = true := by and_intros <;> decide +kernel

/-- The list is accepted, and no two of its entries share a group index. -/
theorem witness_peer_list : (match peerList (gLevel (descOf peered 0 15 ((req 0x30 peerWords).arg 2))) 0
      [memNatAt peered 0x4000 16] (peerTable peered 15) with
    | .ok t => peersApart (gLevel (descOf peered 0 15 ((req 0x30 peerWords).arg 2))) t
    | .error _ => false) = true := by decide +kernel

/-! ### Policy and replay -/

theorem witness_query : calls queryRow 0x31 [2 ^ 24] plane = true ∧ bit ((req 0x31 [2 ^ 24]).arg 0) 24 = true
    ∧ calls queryRow 0x31 [1] owned = true ∧ bit ((req 0x31 [1]).arg 0) 24 = false
    ∧ definedCtx (asks 0x31 [1] owned) 1 = some (setFld (ctx 1) 29 24 5)
    ∧ ctxIsUpd (setFld (ctx 1) 29 24 5) = false ∧ ctxPart (setFld (ctx 1) 29 24 5) = 0 := by decide +kernel

/-- HOLD with queue 255, seal slot 15, replica slot 15. -/
def setWords : List Nat := [2 ^ 8 + 15 * 2 ^ 12 + 2 ^ 16 + 15 * 2 ^ 20 + 2 ^ 24 + 255 * 2 ^ 32]

theorem witness_policy_set : calls policySetRow 0x32 setWords plane = true ∧ argOf (req 0x32 setWords) 0 2 0 = 0
    ∧ uncommitted (getP (asks 0x32 setWords plane) 0) = false
    ∧ slotForeign (asks 0x32 setWords plane) 0 (some 15) = false
    ∧ (getQ (asks 0x32 setWords plane) 255).en = false := by decide +kernel

def continuing : Plane := assisted 3 (epoch (fun e => { e with phase := .formed, hostHold := true }) id)

theorem witness_continue : calls policyContinueRow 0x32 [1, 1] continuing = true
    ∧ argOf (req 0x32 [1, 1]) 1 47 0 = 1 ∧ (getP (asks 0x32 [1, 1] continuing) 0).committed < 1
    ∧ (epGet (getP (asks 0x32 [1, 1] continuing) 0) 1).phase = .formed
    ∧ (epGet (getP (asks 0x32 [1, 1] continuing) 0) 1).hostHold = true
    ∧ dutyHw (asks 0x32 [1, 1] continuing) 0 3 = false ∧ (getP (asks 0x32 [1, 1] continuing) 0).replay = none := by
  decide +kernel

/-- A request of partition 0 is outstanding. -/
def rolling : Plane := { epoch id id with memp := [(63, { MPort.init with reqs := [⟨63, .read, 0x4000, 128, .agent, 0, some 0⟩] })] }

theorem witness_rollback : calls policyRollbackRow 0x32 [2, 2] rolling = true ∧ argOf (req 0x32 [2, 2]) 1 47 0 = 2
    ∧ (getP (asks 0x32 [2, 2] rolling) 0).committed < 2 ∧ 2 ≤ latestEpoch (asks 0x32 [2, 2] rolling) 0
    ∧ (getP (asks 0x32 [2, 2] rolling) 0).defined = true ∧ (getP (asks 0x32 [2, 2] rolling) 0).rollback = none
    ∧ reqsOf (asks 0x32 [2, 2] rolling) 0 = true := by decide +kernel

def deciding : Plane := assisted 3 (epoch (fun e => { e with phase := .formed }) id)

theorem witness_policy_commit : calls policyCommitRow 0x32 [3, 1] deciding = true ∧ argOf (req 0x32 [3, 1]) 1 47 0 = 1
    ∧ (getP (asks 0x32 [3, 1] deciding) 0).committed = 0 ∧ dutyHw (asks 0x32 [3, 1] deciding) 0 3 = false
    ∧ (epGet (getP (asks 0x32 [3, 1] deciding) 0) 1).phase = .formed
    ∧ (epGet (getP (asks 0x32 [3, 1] deciding) 0) 1).taken = false ∧ (getP (asks 0x32 [3, 1] deciding) 0).rollback = none
    ∧ (getP (asks 0x32 [3, 1] deciding) 0).policy.hold = false ∧ fencesOut (asks 0x32 [3, 1] deciding) 0 1 = false
    ∧ (getP (asks 0x32 [3, 1] deciding) 0).replay = none := by decide +kernel

def halted : Plane := modP (with0 (veng { task [] with st := .stopped })) 0 (fun x => { x with halted := some .exhausted })

theorem witness_resume : calls policyResumeRow 0x32 [4] halted = true
    ∧ (getP (asks 0x32 [4] halted) 0).halted = some .exhausted
    ∧ 0 ∈ partVengs (asks 0x32 [4] halted) 0 ∧ (getT (asks 0x32 [4] halted) 0 0).st = .stopped := by decide +kernel

/-- Epochs 1 to 64, one task on engine 0. -/
def replayWords : List Nat := [1, 64, 0, 0, 0x4000, 1]

def replaying : Plane := { with0 { veng Task.init with tasks := [] } with mem := memWrite 0 [] 0x4000 (toLE 16 (2 ^ 64 * 2 ^ 12)) }

def replayed : Plane := asks 0x33 replayWords replaying

def replayCall : Call := callOf replayed 63 (req 0x33 replayWords) session []

theorem witness_replay : calls replayRow 0x33 replayWords replaying = true ∧ argOf (req 0x33 replayWords) 0 47 0 = 1
    ∧ argOf (req 0x33 replayWords) 1 47 0 = 64 ∧ argOf (req 0x33 replayWords) 5 19 16 = 0 ∧ replayBusy replayed 0 = false
    ∧ replayCall.accessOk replayed (argOf (req 0x33 replayWords) 4 51 0) (64 * argOf (req 0x33 replayWords) 5 15 0) = true
    ∧ disputedFault replayCall replayed 0 (argOf (req 0x33 replayWords) 6 51 0) = none
    ∧ (startAll 5 0 ((List.range 1).map (taskWords replayed 0x4000)) (replayPrepare replayCall 1 64 0 (asked replayed []))).isSome
        = true := by and_intros <;> decide +kernel

/-! ### Engines and reports -/

theorem witness_fence : calls fenceRow 0x40 [63] plane = true ∧ (getPhys (asks 0x40 [63] plane) 63).scanning = false
    ∧ isFenced (asks 0x40 [63] plane) 63 = false ∧ fencedIn (asks 0x40 [63] plane) 7 < 3
    ∧ (movesOff (markFence (asks 0x40 [63] plane) 63 (some (asks 0x40 [63] plane).order) 0) 63).isSome = true := by
  decide +kernel

/-- Engine 63 is fenced, and engine 62 hosts its virtual engine. -/
def fenced (x : Phys) : Plane :=
  { plane with
    phys := [(63, { x with fieldFence := true })]
    vengs := [(63, { VEng.init 63 with host := 62 })] }

def ph : Phys := Phys.init 63

theorem witness_unfence : calls unfenceRow 0x41 [63] (fenced { ph with scanPassed := true }) = true
    ∧ isFactory (asks 0x41 [63] (fenced { ph with scanPassed := true })) 63 = false
    ∧ isFenced (asks 0x41 [63] (fenced { ph with scanPassed := true })) 63 = true
    ∧ (getPhys (asks 0x41 [63] (fenced { ph with scanPassed := true })) 63).scanning = false
    ∧ (getPhys (asks 0x41 [63] (fenced { ph with scanPassed := true })) 63).scanPassed = true := by decide +kernel

theorem witness_scan : calls scanRow 0x42 [63] (fenced ph) = true ∧ isFenced (asks 0x42 [63] (fenced ph)) 63 = true
    ∧ anyScan (asks 0x42 [63] (fenced ph)) = false ∧ boundTo (asks 0x42 [63] (fenced ph)) 63 = []
    ∧ hostedOn (asks 0x42 [63] (fenced ph)) 63 = [] := by decide +kernel

theorem witness_scan_end : (fenced { ph with scanning := true }).phys.find? (fun x => x.2.scanning && x.2.power == .active)
    = some (63, { ph with scanning := true, fieldFence := true }) := by decide +kernel

/-- One record in the ring; up to 65,536 of them to 0x4000. -/
def oneRec : Plane :=
  { plane with bb := { BlackBox.init with
      nextSeq := 1
      ring := [(0, ⟨0, 0, 6, 0x49, 0x0801, none, false, false, false, false, []⟩)] } }

def readWords : List Nat := [0, 65536, 0x4000]

theorem witness_read : calls readRow 0x50 readWords oneRec = true ∧ argOf (req 0x50 readWords) 1 31 0 ≤ 65536
    ∧ argOf (req 0x50 readWords) 2 51 0 % 64 = 0 ∧ bit ((req 0x50 readWords).arg 3) 0 = false
    ∧ (req 0x50 readWords).arg 0 ≤ (asks 0x50 readWords oneRec).bb.nextSeq
    ∧ (takeRecs (visibleTo (isMgmt (asks 0x50 readWords oneRec) 5) 0) 65536
        (((ringOrder (asks 0x50 readWords oneRec).bb).filter (fun y => decide (0 ≤ y.seq))).map (fun y => (y.seq, y))) 0).1.length = 1
    ∧ memOk (asks 0x50 readWords oneRec) 0 0x4000 64 = true ∧ failedReqs [] 0x4000 64 = [] := by decide +kernel

theorem witness_ledger : calls ledgerRow 0x51 [0x4000] plane = true ∧ argOf (req 0x51 [0x4000]) 0 51 0 % 4096 = 0
    ∧ bit ((req 0x51 [0x4000]).arg 1) 0 = false ∧ memOk (asks 0x51 [0x4000] plane) 0 0x4000 32768 = true
    ∧ (failedReqs [] 0x4000 (latestImage (asks 0x51 [0x4000] plane)).length).isEmpty = true :=
  have h : ∀ n, (failedReqs [] 0x4000 n).isEmpty = true := fun n => by rw [none_failed]; rfl
  ⟨by decide +kernel, by decide +kernel, by decide +kernel, by decide +kernel, h _⟩

theorem witness_margin : calls marginRow 0x52 [] plane = true ∧ calls timeRow 0x53 [7, 8] plane = true
    ∧ (asks 0x53 [7, 8] plane).bb.queue.length < 4096 := by decide +kernel

theorem witness_attest : calls attestRow 0x54 [0x4000, 0x5000, 384] plane = true
    ∧ argOf (req 0x54 [0x4000, 0x5000, 384]) 2 31 0 = 384
    ∧ (callOf (asks 0x54 [0x4000, 0x5000, 384] plane) 63 (req 0x54 [0x4000, 0x5000, 384]) session []).accessOk
        (asks 0x54 [0x4000, 0x5000, 384] plane) 0x4000 32 = true
    ∧ memOk (asks 0x54 [0x4000, 0x5000, 384] plane) 0 0x5000 384 = true ∧ ∀ n, failedReqs [] 0x5000 (n + 64) = [] :=
  ⟨by decide +kernel, by decide +kernel, by decide +kernel, by decide +kernel, fun _ => none_failed _ _⟩

theorem witness_bad_verb : peekReq (asks 0xFF [] plane) 63 = some (req 0xFF []) ∧ verbCodes.contains (req 0xFF []).verb = false
 := by decide +kernel

/-! ## Ports, pins, hardware checks -/

theorem witness_write_held : isPortWrite (.registerWrite 0x100008 0x0F 0) = true ∧ State.reset.plane.regs.held = .cold := by
  decide

theorem witness_writes : heldCold plane = false ∧ plane.regs.state = .ready ∧ locked plane = false ∧ locked (run0 []) = true
    ∧ heldCold (run0 []) = false ∧ partLocked plane 7 = false ∧ partLocked (run0 []) 0 = true
    ∧ heldCold { plane with regs := { plane.regs with state := .boot } } = false := by decide +kernel

theorem witness_write_mailbox : 0x100000 ≤ (0x1FFFF8#21).toNat := by decide

/-- An address of the register window that no register has, and one written with some bytes only. -/
theorem witness_write_nothing : (0xFFFF8#21).toNat < 0x100000 ∧ 0x10000 ≤ (0xFFFF8#21).toNat ∧ (0x88#21).toNat < 0x100000
    ∧ (0x7F#8) ≠ 0xFF#8 := by decide

/-- The last tag of the last port, asked for by an instruction in flight. -/
def asking (op : MemOp) (retries : Nat) : Plane :=
  { inFlight .plain false with
    memp := [(63, { MPort.init with reqs := [⟨63, op, 0x4000, 128, .flight 3, retries, some 0⟩] })] }

theorem witness_response : portsRun (asking .write 3) = true ∧ (getRg (asking .write 3) 7).quarantined = false
    ∧ (getMP (asking .write 3) 63).reqs.find? (fun r => r.tag == 63) = some ⟨63, .write, 0x4000, 128, .flight 3, 3, some 0⟩
    ∧ (getMP (asking .write 3) 63).waiting = []
    ∧ (asking .write 3).flights.find? (fun f => f.id == 3) = some (flying .plain false)
    ∧ (getMP (asking .read 2) 63).reqs.find? (fun r => r.tag == 63) = some ⟨63, .read, 0x4000, 128, .flight 3, 2, some 0⟩
    ∧ (getMP (asking .read 2) 63).reqs.find? (fun r => r.tag == 62) = none := by decide +kernel

/-- A request that a host reset holds back. -/
def heldReq : Plane :=
  { plane with memp := [(63, ⟨[], [⟨0, .fence, 0, 0, .agent, 0, none⟩], true, false⟩)] }

theorem witness_host_release : (getMP heldReq 63).reqs = [] ∧ (getMP heldReq 63).waiting = [⟨0, .fence, 0, 0, .agent, 0, none⟩] := by
  decide

def credited (n : Nat) : Plane := { plane with colp := [(15, { CPort.init with credits := n })] }

theorem witness_credit : portsRun (credited 4094) = true ∧ (getCP (credited 4094) 15).credits < 4095
    ∧ (getCP (credited 4094) 15).txq = [] ∧ portsRun (credited 4095) = true ∧ 4095 ≤ (getCP (credited 4095) 15).credits := by
  decide

def queued : Plane := { plane with colp := [(15, { CPort.init with txq := [⟨0, 1, []⟩] })] }

theorem witness_port_stall : (getRg (asking .read 0) 7).quarantined = false ∧ (getMP (asking .read 0) 63).stallRec = false
    ∧ (getMP (asking .read 0) 63).reqs ++ (getMP (asking .read 0) 63).waiting ≠ []
    ∧ (getRg queued 7).quarantined = false ∧ (getCP queued 15).stallRec = false ∧ (getCP queued 15).txq ≠ [] := by decide

theorem witness_lines : coreRuns plane = true ∧ 0 ∉ plane.pins.ignored ∧ evtNum .l7 ∉ plane.pins.ignored
    ∧ stuckNum (.evt .l7) ∉ plane.pins.ignored ∧ plane.pins.therm = false ∧ plane.regs.state = .ready := by decide

theorem witness_line_ignored : evtNum .l2 ∈ ({ plane with pins := { Pins.init with ignored := [2] } } : Plane).pins.ignored := by
  decide

/-- VREQ at this code; a code waits, or none. -/
def volts (code : Nat) (changing timedOut : Bool) (wanted : Option Nat) : Plane :=
  { plane with
    pins := { Pins.init with
      vreq := code
      changing := changing
      timedOut := timedOut
      wanted := wanted } }

theorem witness_vack : (volts 104 true false (some 208)).pins.changing = true ∧ (volts 104 true false (some 104)).pins.changing = true
    ∧ (volts 104 true false none).pins.wanted = none ∧ (volts 104 false false none).pins.changing = false
    ∧ (volts 104 true false none).pins.timedOut = false ∧ coreRuns (volts 104 true false none) = true
    ∧ (volts 104 true true none).pins.timedOut = true := by decide

/-- Slack of region 7, PACE_IN, estimate. -/
def slack (c level watts code : Nat) : Plane :=
  { plane with
    regions := [(7, { Region.init with slack := c })]
    pins := { Pins.init with
      vreq := code
      paceIn := BitVec.ofNat 4 level
      watts := watts } }

theorem witness_vreq : (slack 47 15 0 207).regs.state = .ready ∧ (slack 47 15 0 207).pins.changing = false
    ∧ (getRg (slack 47 15 0 207) (worstRegion (slack 47 15 0 207))).slack < 48 ∧ (slack 47 15 0 207).pins.vreq < 208
    ∧ 48 ≤ (getRg (slack 48 14 881 8) (worstRegion (slack 48 14 881 8))).slack
    ∧ (slack 48 14 881 8).duties.getLsbD 7 = false ∧ 8 ≤ (slack 48 14 881 8).pins.vreq
    ∧ aboveCap (slack 48 14 881 8) 881 = true ∧ 48 ≤ (getRg (slack 95 14 880 8) (worstRegion (slack 95 14 880 8))).slack
    ∧ (getRg (slack 95 14 880 8) (worstRegion (slack 95 14 880 8))).slack < 96 ∧ aboveCap (slack 95 14 880 8) 880 = false := by
  decide +kernel

/-- Codes 15 and 16 (R314): a period of 256 with delays 241 and 240. -/
theorem witness_margin_sample : coreRuns plane = true ∧ min 255 (256 * (256 - 241) / 256) = 15
    ∧ min 255 (256 * (256 - 240) / 256) = 16 ∧ (Instr.marginSample 7 [(256, 241), (256, 0), (256, 0), (256, 0)] 150).wf = true := by
  decide

theorem witness_refill : plane.regs.held = .no ∧ plane.regs.state = .ready ∧ plane.duties.getLsbD 7 = false := by decide

/-- Advance of the eight regions since the last check. -/
def advanced (l : List Nat) : Plane :=
  { plane with regions := (l.zipIdx).map (fun x => (x.2, { Region.init with roc := 1000 + x.1, rocCheck := 1000 })) }

/-- At half and at twice the median of 100. -/
theorem witness_oscillators : ∀ r ∈ regionsIn (advanced [100, 100, 100, 50, 200, 100, 100, 100]),
    4 * rocAdvance (advanced [100, 100, 100, 50, 200, 100, 100, 100]) r
      ≥ median2 ((regionsIn (advanced [100, 100, 100, 50, 200, 100, 100, 100])).map
          (rocAdvance (advanced [100, 100, 100, 50, 200, 100, 100, 100])))
    ∧ rocAdvance (advanced [100, 100, 100, 50, 200, 100, 100, 100]) r
      ≤ median2 ((regionsIn (advanced [100, 100, 100, 50, 200, 100, 100, 100])).map
          (rocAdvance (advanced [100, 100, 100, 50, 200, 100, 100, 100]))) := by decide +kernel

/-- One below half. -/
theorem witness_oscillator_fault : 3 ∈ regionsIn (advanced [100, 100, 100, 49, 200, 100, 100, 100])
    ∧ 4 * rocAdvance (advanced [100, 100, 100, 49, 200, 100, 100, 100]) 3
      < median2 ((regionsIn (advanced [100, 100, 100, 49, 200, 100, 100, 100])).map
          (rocAdvance (advanced [100, 100, 100, 49, 200, 100, 100, 100]))) := by decide +kernel

theorem witness_parity : (getRg plane 7).quarantined = false ∧ (getRg plane 7).parity = 0
    ∧ 1 ≤ (getRg { plane with regions := [(7, { Region.init with parity := 1 })] } 7).parity
    ∧ isFenced plane 63 = false ∧ (getPhys plane 63).power ≠ .gated := by decide +kernel

/-- A storage error that is corrected, and one of the operand buffer that is not. -/
def isCe : Issue := { is0 with errs := [.regCE] }
def isUe : Issue := { is0 with errs := [.bufUE false 0] }

theorem witness_corrected : canIssue (.aluAdd isCe (alu 7)) isCe planNone 0 (fed (.aluAdd isCe (alu 7)) (run0 [])) = true := by
  decide +kernel

/-- A STORE while a request of its partition is outstanding. -/
def badStore : Plane :=
  { fed (.store isUe xfer0) (run0 [(1, 0x4000#64)]) with
    memp := [(63, { MPort.init with reqs := [⟨63, .read, 0x4000, 128, .agent, 0, some 0⟩] })] }

theorem witness_uncorrected : canIssue (.store isUe xfer0) isUe (copyPlan .read xfer0) 0 badStore = true
    ∧ (0, 0) ∈ rdRegions (copyPlan .read xfer0 badStore (envOf badStore isUe 0))
    ∧ (getPhys badStore (envOf badStore isUe 0).src).ueBanks.contains 192 = false
    ∧ partOfRegion badStore ((envOf badStore isUe 0).src / 8) = some 0 ∧ (getP badStore 0).defined = true
    ∧ (getP badStore 0).rollback = none ∧ reqsOf badStore 0 = true := by and_intros <;> decide +kernel

/-! ## Power, records, NVM -/

theorem witness_power : (getPhys plane 63).power = .active ∧ engineIdle plane 63 = true ∧ engineIdle (run0 []) 0 = false
    ∧ portDrained plane 63 = true := by decide +kernel

def powered (s : Power) (latched : Bool) : Plane :=
  { plane with phys := [(63, { Phys.init 63 with power := s, latched := latched })] }

theorem witness_drain : (getPhys (powered .draining true) 63).power = .draining ∧ portDrained (powered .draining true) 63 = true
    ∧ (getPhys (powered .gated true) 63).power = .gated ∧ (getPhys (powered .gated true) 63).latched = true
    ∧ (getPhys (powered .waking false) 63).power = .waking := by decide

/-- A gated engine in service wakes; a fenced one only for its scan. -/
theorem witness_wake : mayWake (powered .gated true) 63 = true
    ∧ mayWake { plane with phys := [(63, { Phys.init 63 with power := .gated, fieldFence := true })] } 63 = false
    ∧ mayWake { plane with phys := [(63, { Phys.init 63 with power := .gated, fieldFence := true, scanning := true })] } 63
        = true := by and_intros <;> decide +kernel

/-- One record waits, of level 3 or 4, and the first-fault area has its last place. -/
def writing (level : Nat) (acks : List Ack) : Plane :=
  { plane with bb := { BlackBox.init with
      queue := [(⟨7, 0, level, 0x49, 0x050C, some 0, false, false, false, false, []⟩, acks)]
      nextSeq := 8
      pin := 65535 } }

theorem witness_record : (writing 3 [.pn 0 6]).regs.state = .ready
    ∧ (writing 3 [.pn 0 6]).bb.queue = [(⟨7, 0, 3, 0x49, 0x050C, some 0, false, false, false, false, []⟩, [.pn 0 6])]
    ∧ (writing 4 [.pl 4]).bb.coal = [] ∧ (writing 4 [.pl 4]).bb.lost = 0 ∧ (writing 4 [.pl 4]).nvm.dead = [] := by decide

/-- A device with a spare unit, and a device with none. -/
theorem witness_retire : (0 < Config.spareUnits → (badNow plane).pairs.length < min 4096 Config.spareUnits)
    ∧ (Config.spareUnits = 0 → min 4096 Config.spareUnits ≤ (badNow plane).pairs.length) :=
  ⟨fun h => Nat.lt_min.mpr ⟨by decide, h⟩, fun h => by rw [h]; decide⟩

theorem witness_sample : plane.regs.state = .ready ∧ plane.pins.vreq < 256 ∧ (∀ r, r < 8 → (getRg plane r).slackLedger < 256)
    ∧ plane.duties.getLsbD 9 = false ∧ plane.nvm.writes.any isLedgerWrite = false := by decide +kernel

def programming (w : NvmWrite) : Plane := { plane with nvm := { Nvm.init with writes := [w], started := true } }

theorem witness_nvm (w : NvmWrite) (hw : w = .cfg ⟨1, 0, 2 ^ 63⟩ 63 true none 0 ∨ w = .ledger 2047 ⟨[], [], 0⟩ []) :
    (programming w).nvm.started = true ∧ (programming w).nvm.writes = [w] := by
  rcases hw with rfl | rfl <;> exact ⟨rfl, rfl⟩

/-- The first ledger slot, in an erase unit of 32 KiB that has no spare. -/
theorem witness_dead (h : Config.eraseUnit = 32768) :
    unitDead { plane with nvm := { Nvm.init with dead := [0x12400000 / 32768] } } (writeSpan (.ledger 0 ⟨[], [], 0⟩ [])).1
      (writeSpan (.ledger 0 ⟨[], [], 0⟩ [])).2 = true := by
  simp [unitDead, writeSpan, h]

def testing : Plane := { plane with regs := { plane.regs with state := .test } }

theorem witness_instrument : testing.regs.state = .test
    ∧ (Instr.nvmInstrumentAccess true 0x01FFFFFE [1, 2]).wf = true
    ∧ (Instr.nvmInstrumentAccess false 0x01FFFFFE [0, 0]).wf = true ∧ plane.regs.state ≠ .test := by decide

/-! ## Resets and starts -/

theorem witness_reset : plane.regs.held = .no ∧ State.reset.plane.regs.held = .cold
    ∧ ({ plane with regs := heldRegs .warm } : Plane).regs.held = .warm := by decide

def env (fromPower test check : Bool) : StartEnv := ⟨fromPower, test, check, true, true, true, [], true, [], 0⟩

/-- NVM that holds these bytes at the place of image B. -/
def imageMem (bs : List Byte) : Mem := (bs.zipIdx).map (fun x => (0x01000000 + x.2, x.1))

theorem spGet_zip (bs : List Byte) (a k j : Nat) :
    spGet ((bs.zipIdx k).map (fun x => (a + x.2, x.1))) (a + k + j) = bs[j]? := by
  induction bs generalizing k j with
  | nil => rfl
  | cons b t ih =>
    cases j with
    | zero => simp [spGet]
    | succ j =>
      have := ih (k + 1) j
      rw [show a + (k + 1) + j = a + k + (j + 1) by omega] at this
      simp [spGet, this]

theorem image_read (bs : List Byte) (off n : Nat) :
    memRead 0xFF (imageMem bs) (0x01000000 + off) n = (List.range n).map (fun k => (bs[off + k]?).getD 0xFF) := by
  refine List.map_congr_left (fun k _ => ?_)
  have := spGet_zip bs 0x01000000 0 (off + k)
  rw [show 0x01000000 + 0 + (off + k) = 0x01000000 + off + k by omega] at this
  simp [memGet, spGetD, imageMem, this]

/-- Version 1, 128 bytes, RELEASE 7, SLOT_GEN 3. -/
def imageHead : List Byte := toLE 16 (1 + 128 * 2 ^ 32 + 7 * 2 ^ 64 + 3 * 2 ^ 96)

theorem head_length : imageHead.length = 16 := by decide +kernel
theorem digest_length (h : BitVec 256) : (digestBytes h).length = 32 := by simp [digestBytes, beBytes, toLE]

/-- NVM whose image B is 128 bytes of 0xFF with this hash of them; there is no image A. The fuses hold this hash of its
key. -/
def booting (h : Held) (hash key : BitVec 256) : Plane :=
  { Plane.init with
    regs := heldRegs h
    nvm := { Nvm.init with fw := imageMem (imageHead ++ digestBytes hash) }
    fuses := { Fuses.init with fwKeyHash := key } }

/-- Image B verifies. -/
def loaded (h : Held) : Plane :=
  booting h (Config.sha256 (List.replicate 128 0xFF)) (Config.sha256 (List.replicate 64 0xFF))

theorem booting_read (h : Held) (a k : BitVec 256) (off n : Nat) : fwBytes (booting h a k) true off n
    = (List.range n).map (fun j => ((imageHead ++ digestBytes a)[off + j]?).getD 0xFF) := image_read _ off n

theorem hash_there (h : Held) (a k : BitVec 256) : fwBytes (booting h a k) true 16 32 = digestBytes a := by
  rw [booting_read]
  apply List.ext_getElem (by simp [digest_length])
  intro j h1 h2
  have : (imageHead ++ digestBytes a)[16 + j]? = (digestBytes a)[j]? := by
    rw [List.getElem?_append_right (by simp [head_length]), head_length, Nat.add_sub_cancel_left]
  simp [this, h2]

/-- Past its hash the image is blank. -/
theorem blank_there (h : Held) (a k : BitVec 256) (off n : Nat) (ho : 48 ≤ off) :
    fwBytes (booting h a k) true off n = List.replicate n 0xFF := by
  rw [booting_read]
  apply List.ext_getElem (by simp)
  intro j h1 h2
  have : (imageHead ++ digestBytes a)[off + j]? = none := by
    rw [List.getElem?_eq_none_iff]
    simp only [List.length_append, head_length, digest_length]
    omega
  simp [this]

/-- The first 16 bytes do not depend on the hash. -/
theorem head_there (h : Held) (a k : BitVec 256) (off n : Nat) (ho : off + n ≤ 16) :
    fwNat (booting h a k) true off n = leNat ((List.range n).map (fun j => (imageHead[off + j]?).getD 0xFF)) := by
  show leNat (fwBytes (booting h a k) true off n) = _
  rw [booting_read]
  congr 1
  refine List.map_congr_left (fun j hj => ?_)
  rw [List.getElem?_append_left (by rw [head_length]; have := List.mem_range.1 hj; omega)]

/-- There is nothing below it. -/
theorem no_image_a (h : Held) (a k : BitVec 256) (off n : Nat) (ho : off + n ≤ 16) :
    fwNat (booting h a k) false off n = leNat (List.replicate n 0xFF) := by
  have hg : ∀ (bs : List Byte) s x, x < 0x01000000 → spGet ((bs.zipIdx s).map (fun y => (0x01000000 + y.2, y.1))) x = none := by
    intro bs
    induction bs with
    | nil => exact fun _ _ _ => rfl
    | cons b t ih =>
      intro s x hx
      have : x ≠ 0x01000000 + s := by omega
      simp [spGet, this, ih (s + 1) x hx]
  show leNat (fwBytes (booting h a k) false off n) = _
  congr 1
  apply List.ext_getElem (by simp [fwBytes, memRead])
  intro j h1 h2
  have hj : j < n := by simpa using h2
  simp [fwBytes, memRead, memGet, spGetD, fwBase, booting, imageMem, hg _ 0 (off + j) (by omega)]

theorem image_b (h : Held) : imageOk (loaded h) true true = true := by
  have h4 : fwNat (loaded h) true 4 4 = 128 := (head_there h _ _ 4 4 (by decide)).trans (by decide +kernel)
  have h0 : fwNat (loaded h) true 0 2 = 1 := (head_there h _ _ 0 2 (by decide)).trans (by decide +kernel)
  have hk : fwBytes (loaded h) true 48 64 = List.replicate 64 0xFF := blank_there h _ _ 48 64 (by decide)
  have hb : fwBytes (loaded h) true 4096 128 = List.replicate 128 0xFF := blank_there h _ _ 4096 128 (by decide)
  have hh : fwBytes (loaded h) true 16 32 = digestBytes (Config.sha256 (List.replicate 128 0xFF)) := hash_there h _ _
  have hm : (loaded h).fuses.minRelease.toNat = 0 := rfl
  have hf : (loaded h).fuses.fwKeyHash = Config.sha256 (List.replicate 64 0xFF) := rfl
  simp only [imageOk, h4, h0, hk, hb, hh, hm, hf, beq_self_eq_true]
  simp

theorem picks_b (h : Held) (t s : Bool) : (pickImage (loaded h) (env t s true)).run = some true := by
  have hv : fwNat (loaded h) false 0 2 = 0xFFFF := (no_image_a h _ _ 0 2 (by decide)).trans (by decide +kernel)
  have hb : fwNat (loaded h) true 12 4 = 3 := (head_there h _ _ 12 4 (by decide)).trans (by decide +kernel)
  have ha : fwNat (loaded h) false 12 4 = 0xFFFFFFFF := (no_image_a h _ _ 12 4 (by decide)).trans (by decide +kernel)
  have hf : imageOk (loaded h) false true = false := by simp [imageOk, hv]
  simp [pickImage, hb, ha, env, hf, image_b]

theorem witness_boots (h : Held) (t : Bool) : Boots (loaded h) (env t false true) true :=
  ⟨rfl, picks_b h t false, by cases h <;> decide +kernel, rfl⟩

theorem witness_lost (h : Held) : Lost (loaded h) := by constructor <;> and_intros <;> rfl

theorem witness_starts : (loaded .power).regs.held = .power ∧ (env true false true).fromPower = true
    ∧ (loaded .cold).regs.held = .cold ∧ (env false true true).testMode = true
    ∧ (getRg (loaded .power) 0).quarantined = false ∧ (loaded .warm).regs.held = .warm
    ∧ (referenceOf (loaded .warm)).isSome = true ∧ (env true false false).selfCheckOk = false :=
  ⟨rfl, rfl, rfl, rfl, rfl, rfl, rfl, rfl⟩

/-- NVM is blank: no image verifies. -/
theorem witness_no_image : (pickImage Plane.init (env false false true)).run = none := by
  have h : ∀ b, imageOk Plane.init b true = false := fun b => by
    have hv : (fwNat Plane.init b 0 2 == 1) = false := by cases b <;> decide +kernel
    simp [imageOk, hv]
  simp [pickImage, h, env]

/-- With four factory fences missing, no bin is right. -/
theorem witness_bad_bin : factoryOk { loaded .cold with fuses := { (loaded .cold).fuses with bin := 1 } } = false := rfl

theorem witness_bist : BistFail.plane ∈ ({ env false false true with bist := [.plane] } : StartEnv).bist :=
  List.mem_cons_self ..

/-! ## The whole machine -/

theorem witness_order : List.Perm [(⟨0, 0, ⟨1, 0⟩, -4, 0, 1⟩ : Cell), ⟨0, 0, ⟨-2, 1⟩, -4, 1, 0⟩]
    [⟨0, 0, ⟨-2, 1⟩, -4, 1, 0⟩, ⟨0, 0, ⟨1, 0⟩, -4, 0, 1⟩] := List.Perm.swap _ _ _

theorem witness_formats : -(2 : Int) ^ 135 ≤ -(2 : Int) ^ 135 ∧ -(2 : Int) ^ 135 < (2 : Int) ^ 135
    ∧ (2 : Int) ^ 135 - 1 < (2 : Int) ^ 135 := by decide

theorem witness_sound : step State.reset = .next State.reset ∧ Sound State.reset.plane :=
  ⟨rfl, ⟨⟨rfl, rfl, rfl⟩, by decide, fun _ h => nomatch h⟩⟩

/-- The guard p7, which is 0. -/
def guarded : Issue := ⟨0, 0, true, false, 7, .ok, [], []⟩

def skipped : Plane := fed (.yield guarded) (run0 [])

theorem witness_guard : issueOf (.yield guarded) = some guarded ∧ gate skipped guarded = .go 0
    ∧ (taskAt skipped guarded).regs.pc < ninsnOf skipped 0 ∧ spells (.yield guarded) guarded 0 skipped = true
    ∧ reserved (.yield guarded) = false ∧ guardOff (taskAt skipped guarded).regs guarded = true
    ∧ onTurn skipped guarded = true := by and_intros <;> decide +kernel

/-- CMP 6. -/
def setp6 : Instr := .setp is0 ⟨6, 7, 0, 1, 2, true, 0⟩

theorem witness_reserved : issueOf setp6 = some is0 ∧ gate (fed setp6 (run0 [])) is0 = .go 0
    ∧ spells setp6 is0 0 (fed setp6 (run0 [])) = true ∧ reserved setp6 = true := by and_intros <;> decide +kernel

/-- The port answers the fetch with an error; a word of zeros spells nothing. -/
theorem witness_fetch : gate (run0 []) { is0 with fetch := .portError } = .go 0
    ∧ fetched (run0 []) (envOf (run0 []) is0 0) is0 = none := by and_intros <;> decide +kernel

def pastEnd : Plane := with0 (veng { task [] with regs := { TaskRegs.init with pc := 100 } })

theorem witness_past_end : gate pastEnd is0 = .go 0 ∧ ninsnOf pastEnd 0 ≤ (taskAt pastEnd is0).regs.pc := by
  and_intros <;> decide +kernel

/-- A row of chapter 08 and a collective, with their words. -/
theorem witness_words : encodeInsn (.halt is0) = some (BitVec.ofNat 128 (0x1F * 2 ^ 120)) ∧ issueOf (.halt is0) = some is0
    ∧ (encodeInsn (.maxx is0 xfer0)).isSome = true ∧ collRowOf (.maxx is0 xfer0) = some (12, is0, xfer0) := by
  and_intros <;> decide +kernel

/-! ## Words of the encoding tables (spec/08) -/

/-- A word: the OPCODE, and values with the lowest bit of their field. -/
def fields (op : Nat) (l : List (Nat × Nat)) : Nat := l.foldl (fun w x => w + x.1 * 2 ^ x.2) (op * 2 ^ 120)

def reads (w : Nat) (c : Instr) : Bool := decodeInsn (fun _ => 0) (rIssue 0 0 w) w == some c

/-- The manual's example of an MMA, by its bytes in memory. -/
theorem test_word_mma : reads (leNat [0x00, 0x08, 0xA0, 0x30, 0x02, 0x40, 0x80, 0x20, 0x10, 0x08, 0x00, 0x08, 0x08, 0x00, 0x00, 0x01])
    (.mma is0 ⟨0x101, 0x102, 2, 64, false, 1, 0, 4, 12, 5, 0x40, 0⟩) = true := by decide +kernel

theorem test_word_ldw : reads (fields 0x02 [(0x102, 91), (4, 86), (12, 81), (192, 73), (1, 72), (5, 67), (0x8001, 51)])
    (.ldw is0 ⟨0x102, 4, 12, 192, true, 5, 0x8001⟩) = true := by decide +kernel

theorem test_word_conv : reads (fields 0x03 [(7, 91), (79, 84), (1280, 73), (192, 65), (1, 64), (255, 56), (2, 54), (3, 49), (17, 44),
      (1, 42), (1, 41), (9, 36), (0x8001, 20), (6, 15), (15, 11)])
    (.conv is0 ⟨7, 79, 1280, 192, true, 255, 2, 3, 17, 1, true, 9, 0x8001, 6, 15⟩) = true := by decide +kernel

theorem test_word_ewise : reads (fields 0x04 [(2, 112), (1, 110), (1, 105), (2, 100), (3, 95), (4, 90), (0x8001, 74), (5, 69), (9, 53),
      (6, 48), (7, 43), (255, 35), (1, 33), (8, 28), (16, 23), (2, 21), (1, 20), (9, 15), (15, 11)])
    (.ewiseSub is0 ⟨1, 1, 2, 3, 4, 0x8001, 5, 9, 6, 7, 255, 1, 8, 16, 2, true, 9, 15⟩) = true := by decide +kernel

theorem test_word_red : reads (fields 0x05 [(1, 113), (3, 111), (1, 106), (2, 101), (3, 96), (9, 80), (4, 75), (5, 70), (6, 65), (79, 58),
      (1, 57), (2, 55), (1020, 45), (1, 43), (1, 42), (7, 37), (8, 32), (9, 27), (15, 23)])
    (.redMax is0 ⟨3, 1, 2, 3, 9, 4, 5, 6, 79, true, 2, 1020, 1, true, 7, 8, 9, 15⟩) = true := by decide +kernel

theorem test_word_upd : reads (fields 0x06 [(8, 91), (1023, 81), (1, 76), (2, 74), (1, 72), (1, 71), (1, 70), (2, 65), (9, 49), (3, 44),
      (4, 39), (15, 35)]) (.updBlockMatrix is0 ⟨8, 1023, 1, 1, true, true, 2, 9, 3, 4, 15⟩ .k8) = true := by decide +kernel

theorem test_word_xfer : reads (fields 0x07 [(10, 111), (15, 107), (1, 102), (0xFFFFFF, 78), (2, 73), (0x8001, 57), (3145728, 35), (79, 28),
      (1280, 17), (1, 16), (1, 15), (3, 13), (3, 8), (4, 3)])
    (.xtload is0 ⟨15, 1, 0xFFFFFF, 2, 0x8001, 3145728, 79, 1280, true, true, 3, 3, 4⟩) = true := by decide +kernel

theorem test_word_ring : reads (fields 0x08 [(4, 112), (15, 108), (1, 103), (0x10, 79), (2, 74), (0x8001, 58), (65536, 36), (7, 33), (3, 28),
      (4, 23)]) (.ringMcast is0 ⟨15, 1, 0x10, 2, 0x8001, 65536, 7, 3, 4⟩) = true := by decide +kernel

theorem test_word_sync : reads (fields 0x09 [(1, 114), (1, 113), (255, 105), (3, 100), (7, 97)]) (.hqGet is0 ⟨true, 255, 3, 7⟩) = true
    ∧ reads (fields 0x0A [(63, 108), (3, 103)]) (.crossArrive is0 63 3) = true ∧ reads (fields 0x0B []) (.swap is0) = true
    ∧ reads (fields 0x0C [(0x8001, 99)]) (.wait is0 0x8001) = true
    ∧ reads (fields 0x0D [(1, 110), (1, 109), (1, 108), (2, 103), (9, 79), (15, 75)]) (.ctxSnapshot is0 ⟨1, true, 2, 9, 15⟩) = true
    ∧ reads (fields 0x0E [(3, 108)]) (.sealClose is0 3) = true := by and_intros <;> decide +kernel

theorem test_word_scalar : reads (fields 0x10 [(1, 114), (3, 109), (0xFFFFFFFE, 77)]) (.br is0 ⟨true, 3, 0xFFFFFFFE⟩) = true
    ∧ reads (fields 0x11 [(3, 110), (99, 94)]) (.loop is0 ⟨3, 99⟩) = true
    ∧ reads (fields 0x12 [(8, 110), (3, 105), (1, 100), (2, 95), (1, 94), (7, 46)]) (.aluSar is0 (alu 7)) = true
    ∧ reads (fields 0x13 [(5, 112), (7, 109), (2, 107), (1, 102), (2, 97), (0, 96), (9, 48)]) (.setp is0 ⟨5, 7, 2, 1, 2, false, 9⟩)
        = true
    ∧ reads (fields 0x1E []) (.yield is0) = true ∧ reads (fields 0x1F []) (.halt is0) = true := by and_intros <;> decide +kernel

/-- OPCODE 0x00, EOP 0b100 and XOP 0xC are reserved; the guard's fields stand above the class fields. -/
theorem test_word_header : decodeInsn (fun _ => 0) is0 0 = none ∧ decodeInsn (fun _ => 0) is0 (fields 0x04 [(4, 112)]) = none
    ∧ decodeInsn (fun _ => 0) is0 (fields 0x07 [(12, 111)]) = none
    ∧ rIssue 0 0 (fields 0x1E [(1, 119), (1, 118), (5, 115)]) = ⟨0, 0, true, true, 5, .ok, [], []⟩ := by
  and_intros <;> decide +kernel

/-- OP 12 of the descriptor that a COLL names. -/
theorem test_word_coll : decodeInsn (fun _ => 12) is0 (fields 0x07 [(5, 111), (15, 107), (1, 102)])
    = some (.maxx is0 ⟨15, 1, 0, 0, 0, 0, 0, 0, false, false, 0, 0, 0⟩) := by decide +kernel

/-! ## Worked examples of the manual -/

/-! Decoding (spec/02, "Decoding examples"). -/

/-- Whether a decoded value is `m × 2^e`, whatever its representation. -/
def isDy (v : XVal) (m e : Int) : Bool :=
  match v with
  | .fin d => dyEq d ⟨m, e⟩
  | _ => false

theorem test_decode_e4m3 : isDy (decodeIn .mxfp8e4m3 0xC1 0x85 0) (-144) 0 ∧ isDy (decodeIn .mxfp8e4m3 0x05 0x85 0) 0 0
    ∧ isDy (decodeIn .mxfp8e4m3 0x7E 0x85 0) 28672 0 ∧ decodeIn .mxfp8e4m3 0x7F 0x85 0 = .nan
    ∧ isDy (decodeIn .mxfp8e4m3 0x80 0x85 0) 0 0 := by decide +kernel

theorem test_decode_nx4 : [0, 1, 2, 3].map (nxShift 0xE4) = [0, 1, 2, 3]
    ∧ isDy (decodeIn .nx4 0x7 0x7F 0) 6 0 ∧ isDy (decodeIn .nx4 0x1 0x7F 1) 0 0 ∧ isDy (decodeIn .nx4 0x3 0x7F 1) 3 (-2)
    ∧ isDy (decodeIn .nx4 0x5 0x7F 3) 3 (-3) ∧ isDy (decodeIn .nx4 0xA 0x7F 3) (-1) (-3) := by decide +kernel

theorem test_pack_six : packCodes 6 [0x08, 0x28, 0x1F, 0x10] = [0x08#8, 0xFA#8, 0x41#8] := by decide +kernel
theorem test_unpack_six : unpackCodes 6 4 [0x08#8, 0xFA#8, 0x41#8] = [0x08, 0x28, 0x1F, 0x10] := by decide +kernel

/-- The example group of exact values. -/
def group32 : List Acc := ⟨3 * 2 ^ 32, 0⟩ :: ⟨-2 ^ 32, 0⟩ :: ⟨0, 3⟩ :: List.replicate 29 ⟨0, 0⟩

theorem test_xaft_group : (xaftGroup (-100) group32).length = 140 ∧ (xaftGroup (-100) group32).take 12 =
    [0x9C#8, 0x00#8, 0x1F#8, 0x92#8, 3#8, 0#8, 0#8, 0#8, 0xFF#8, 0xFF#8, 0xFF#8, 0xFF#8]
    ∧ (xaftGroup (-100) group32).drop 132 = [0x30#8, 0#8, 0#8, 0#8, 0#8, 0#8, 0#8, 0#8] := by decide +kernel

/-! Conversion (spec/03, "Worked conversions"). -/

theorem test_ocu_chain : ocuT32 (accValue ⟨0x30, 0⟩ (-4)) 0x3F000000#32 0x3E800000#32 = (0x3FE00000#32, false) := by
  decide +kernel
theorem test_narrow_e4m3 : narrowElem .e4m3 .e4m3 0 0 0 (.fin ⟨14, 0⟩) = ⟨0x56, .stored⟩ := by decide +kernel
theorem test_narrow_e4m3_tie : narrowElem .e4m3 .e4m3 0 0 0 (.fin ⟨464, 0⟩) = ⟨0x7E, .stored⟩
    ∧ narrowElem .e4m3 .e4m3 2 0 0 (.fin ⟨464, 0⟩) = ⟨0x7E, .stored⟩ := by decide +kernel
theorem test_narrow_e4m3_over : narrowElem .e4m3 .e4m3 0 0 0 (.fin ⟨465, 0⟩) = ⟨0x7E, .saturated⟩
    ∧ narrowElem .e4m3 .e4m3 2 0 0 (.fin ⟨465, 0⟩) = ⟨0x7F, .nan⟩ := by decide +kernel
theorem test_narrow_e5m2 : narrowElem .e5m2 .e5m2 1 0 0 (.fin ⟨61439, 0⟩) = ⟨0x7B, .stored⟩
    ∧ narrowElem .e5m2 .e5m2 1 0 0 (.fin ⟨61440, 0⟩) = ⟨0x7C, .infinite⟩
    ∧ narrowElem .e5m2 .e5m2 0 0 0 (.fin ⟨61440, 0⟩) = ⟨0x7B, .saturated⟩ := by decide +kernel
theorem test_mix64 : mix64 0 = 0 ∧ mix64 1 = 0xD11C6703CA9ACD13#64 ∧ sr16 0x2A51#64 0x2A51 0 1 = 0xD11C := by
  decide +kernel
/-- 1.0029296875 is 8216 × 2^-13. -/
theorem test_narrow_bf16_random : narrowElem .bf16 .bf16 0 2 0 (.fin ⟨8216, -13⟩) = ⟨0x3F80, .stored⟩
    ∧ narrowElem .bf16 .bf16 0 2 0xD11C (.fin ⟨8216, -13⟩) = ⟨0x3F81, .stored⟩ := by decide +kernel

/-- The elements of a block: quarters of these numbers, then zeros. -/
def block (qs : List Int) : List (XVal × Nat) := (qs ++ List.replicate (32 - qs.length) 0).map (fun q => (.fin ⟨q, -5⟩, 0))

def mx4 : OutBlock := narrowBlock ⟨.mxfp4, .e2m1, 0, 0, none⟩ (block [160, 24, 30, -84])

theorem test_block_mxfp4 : mx4.scale = 0x7F ∧ (mx4.elems.take 4).map OutElem.code = [6, 0, 2, 0xD]
    ∧ (mx4.elems.take 4).map OutElem.fate = [.stored, .flushed, .stored, .stored] := by decide +kernel

def nx4 : OutBlock := narrowBlock ⟨.nx4, .e2m1, 0, 0, none⟩
  (block [192, 32, 0, 0, 0, 0, 0, 0, 24, 12, 0, 0, 0, 0, 0, 0, 48])

theorem test_block_nx4 : nx4.scale = 0x7F ∧ nx4.shifts = 0xEC ∧ (nx4.elems.take 2).map OutElem.code = [7, 2]
    ∧ ((nx4.elems.drop 8).take 2).map OutElem.code = [7, 5] ∧ ((nx4.elems.drop 16).take 1).map OutElem.code = [7] := by
  decide +kernel

/-! Winners and the canonical order (spec/05). -/

theorem test_winner_record : leNat (winBytes ⟨.fin ⟨4, 0⟩, 1⟩) = 0x000000010000FFEB0000000000800000 := by decide +kernel
theorem test_winner_ties : winAll true [⟨.fin ⟨4, 0⟩, 4⟩, ⟨.fin ⟨4, 0⟩, 9⟩, ⟨.fin ⟨4, 0⟩, 1⟩] = some ⟨.fin ⟨4, 0⟩, 1⟩
    ∧ winAll true [⟨.fin ⟨4, 0⟩, 9⟩, ⟨.nan, 10⟩, ⟨.nan, 6⟩] = some ⟨.nan, 6⟩ := by decide +kernel
theorem test_csum : csumAt 3 [0x3F800000#32, 0x33800000#32, 0x33800000#32] = 0x3F800000#32
    ∧ csumAt 2 [0x3F800000#32, 0x34000000#32] = 0x3F800001#32 := by decide +kernel

/-! Statistics and digests (spec/06, "Worked examples"). -/

theorem test_bins : histBin (-12) (.fin ⟨0, 0⟩) = 0 ∧ histBin (-12) (.fin ⟨3, -12⟩) = 2 ∧ histBin (-12) (.fin ⟨3, -2⟩) = 12
    ∧ histBin (-12) (.fin ⟨14, 0⟩) = 16 ∧ histBin (-12) (.fin ⟨3, 50⟩) = 63 ∧ histBin (-12) .nan = 63 := by decide +kernel

theorem test_digests : digestAccs 0x002A510000000000#64 0x2A51 0 [⟨7, 0⟩, ⟨5, 0⟩] = 0x158E0312F506017F
    ∧ digestAccs 0x002A510000000000#64 0x2A51 0 [⟨9, 0⟩, ⟨-3, 0⟩] = 0x0CAACAF4A02F98B3
    ∧ digestAdd 0x158E0312F506017F 0x0CAACAF4A02F98B3 = 0x0238CE0795359A33 := by decide +kernel

/-! A packet's header (spec/10, "A packet in full"). -/

def example10 : Packet :=
  ⟨0, 0x156532E6771CC7E1, 3, 0xFFBE, 140, 32, 0x39C, 2, 5, 0, 0x2A51, 1207, 7, 0x1E, 0, true, 0, 1, []⟩

theorem test_packet_words : (List.range 7).map (fun w => hdrNat example10 / 2 ^ (64 * w) % 2 ^ 64) =
    [0x04B70000071E1001, 0x00002A5100000000, 0x0200005000000000, 0x011800200039C000, 0x771CC7E10003FFBE,
      0x00000000156532E6, 0] := by decide +kernel

theorem test_packet_digest : digestAccs 0x002A510000000000#64 0x2A51 0 group32 = 0x156532E6771CC7E1 := by decide +kernel
end Sys2Proof.Tests
end

section
/-! The rows that write one register: the issue of an instruction whose plan is `plan0`, and the registers, the predicates
and the PC after it (R183). -/

namespace Sys2Proof.Proofs

open Sys2Proof Sys2Proof.Machine Sys2Proof.Claims

/-! ## Registers under a change of the PC -/

@[simp] theorem rGet_pcTo (t : TaskRegs) (pc : Nat) (k : BitVec 5) : rGet (pcTo t pc) k = rGet t k := rfl
@[simp] theorem pGet_pcTo (t : TaskRegs) (pc : Nat) (k : BitVec 3) : pGet (pcTo t pc) k = pGet t k := rfl
@[simp] theorem pGet_rPut (t : TaskRegs) (r : BitVec 5) (v : Nat) (k : BitVec 3) : pGet (rPut t r v) k = pGet t k := by
  simp only [pGet, rPut_p]

/-! ## The issue of an instruction with the plan `plan0` -/

/-- The marks keep the partition out of a rollback. -/
theorem marks_rollback (p : Plane) (e : Env) (pl : Plan) (j : Nat) :
    (getP (marks p e pl) j).rollback = (getP p j).rollback := by
  have h := congrArg Part.rollback ((marks_frame p e pl).parts j)
  exact h

/-- The marks, the effect, the PC: nothing else, where the effect is the issuing task's. -/
theorem issueWith_plan0 {c : Instr} {i : Issue} {plan : Plane → Env → Plan} {pi : Nat} {p : Plane}
    (h : Ready c i plan pi p) (hplan : plan p (envOf p i pi) = plan0) (run : Plane → Env → Nat → Plane)
    (hrun : ∀ q n, SeqFrame q (run q (envOf p i pi) n)) :
    issueWith c i plan run p
      = advance (run (marks p (envOf p i pi) plan0) (envOf p i pi) p.nextId) (envOf p i pi) plan0 := by
  obtain ⟨hcan, herrs⟩ := h
  obtain ⟨-, hroll, -⟩ := gate_go ((canIssue_iff c i plan pi p).1 hcan).gate
  rw [issueWith_canIssue hcan, hplan, stored_none i plan0 run herrs, issued,
    begun_plain p (envOf p i pi) plan0 rfl rfl rfl rfl]
  exact advanceAfter_frame _ _ (hrun _ _) ((marks_rollback p _ _ _).trans hroll)

theorem setReg_frame (p : Plane) (e : Env) (r : BitVec 5) (v : Nat) : SeqFrame p (setReg p e r v) :=
  SeqFrame.modT p e.v e.s _

/-- The task after its register is written and its PC has moved on. -/
theorem taskAt_advance_setReg (p q : Plane) (i : Issue) (pi : Nat) (r : BitVec 5) (v : Nat)
    (h : (taskAt q i).st = .active) :
    taskAt (advance (setReg q (envOf p i pi) r v) (envOf p i pi) plan0) i
      = { taskAt q i with
          stallRec := false
          regs := pcTo (rPut (taskAt q i).regs r v) ((taskAt q i).regs.pc + 1) } := by
  have hst : (getT q i.veng.val i.slot.val).st = .active := h
  simp [taskAt, advance, setReg, envOf, hst, plan0]

/-- Where the effect is one register's write, the instruction does that and goes on. -/
theorem issueWith_writesReg {c : Instr} {i : Issue} {plan : Plane → Env → Plan} {pi : Nat} {s : State}
    (h : Ready c i plan pi s.plane) (hplan : plan s.plane (envOf s.plane i pi) = plan0) {r : BitVec 5} {v : Nat}
    {run : Plane → Env → Nat → Plane} (hrun : ∀ q n, run q (envOf s.plane i pi) n = setReg q (envOf s.plane i pi) r v) :
    WritesReg s { s with plane := issueWith c i plan run s.plane } i r v := by
  obtain ⟨hact, -⟩ := gate_go ((canIssue_iff c i plan pi s.plane).1 h.1).gate
  rw [issueWith_plan0 h hplan run (fun q n => hrun q n ▸ setReg_frame _ _ _ _), hrun]
  generalize hm : marks s.plane (envOf s.plane i pi) plan0 = m
  have htask : ∀ v s', getT m v s' = getT s.plane v s' := fun v s' => by rw [← hm, getT_marks]
  have hm_task : taskAt m i = taskAt s.plane i := htask _ _
  have hafter := taskAt_advance_setReg s.plane m i pi r v (hm_task ▸ hact)
  rw [hm_task] at hafter
  refine ⟨rfl, fun k => ?_, fun k => ?_, ?_, fun w k hne => ?_, ?_⟩
  · show rGet (taskAt _ i).regs k = _
    rw [hafter, rGet_pcTo, rGet_put]
    rfl
  · show pGet (taskAt _ i).regs k = _
    rw [hafter, pGet_pcTo, pGet_rPut]
    rfl
  · rw [flowAt, hafter]
    simp [pcTo, nextFlow]
  · exact ((getT_modT_ne _ _ hne).trans (getT_modT_ne _ _ hne)).trans (htask w k)
  · have hmarks : SeqFrame s.plane m := hm ▸ marks_frame _ _ _
    exact hmarks.trans ((setReg_frame _ _ _ _).trans (SeqFrame.modT _ _ _ _))

/-! ## The operations of R183 -/

theorem aluShlV_eq (a b : U64) : aluShlV a b = BitVec.ofNat 64 (a.toNat * 2 ^ (b.toNat % 64)) := by
  apply BitVec.eq_of_toNat_eq
  rw [aluShlV, BitVec.toNat_shiftLeft, Nat.shiftLeft_eq, BitVec.toNat_ofNat]

theorem aluShrV_eq (a b : U64) : aluShrV a b = BitVec.ofNat 64 (a.toNat / 2 ^ (b.toNat % 64)) := by
  apply BitVec.eq_of_toNat_eq
  rw [aluShrV, BitVec.toNat_ushiftRight, Nat.shiftRight_eq_div_pow, BitVec.toNat_ofNat,
    Nat.mod_eq_of_lt (Nat.lt_of_le_of_lt (Nat.div_le_self _ _) a.isLt)]

theorem aluSarV_eq (a b : U64) : aluSarV a b = BitVec.ofInt 64 (a.toInt / 2 ^ (b.toNat % 64)) := by
  apply BitVec.eq_of_toInt_eq
  rw [aluSarV, BitVec.sshiftRight_eq, Int.shiftRight_eq_div_pow]
  norm_cast

/-- A two-operand row runs `aluRun` with its operation. -/
theorem exec_aluOp {c : Instr} {i : Issue} {f : AluF} {op : U64 → U64 → U64} (h : aluOp c = some (i, f, op)) (s : State) :
    exec c s = .next { s with plane := issueWith c i planNone (aluRun op f) s.plane } := by
  cases c
  case aluShl u g => cases h; rw [← show aluShlV = _ from funext fun a => funext (aluShlV_eq a)]; rfl
  case aluShr u g => cases h; rw [← show aluShrV = _ from funext fun a => funext (aluShrV_eq a)]; rfl
  case aluSar u g => cases h; rw [← show aluSarV = _ from funext fun a => funext (aluSarV_eq a)]; rfl
  all_goals cases h <;> rfl

/-! ## RDSPEC -/

/-- b, as the issue reads it. -/
theorem aluB_envOf (p : Plane) (i : Issue) (pi : Nat) (sb : BitVec 5) (u : Bool) (imm : BitVec 48) :
    aluB (envOf p i pi).t.regs sb u imm = opB p i sb u imm := rfl

theorem rdspecPlan_of_lt {f : AluF} {p : Plane} {i : Issue} {pi : Nat} (h : (opB p i f.sb f.i f.imm).toNat < 3) :
    rdspecPlan f p (envOf p i pi) = plan0 := by
  rw [rdspecPlan, aluB_envOf, if_pos h]
  rfl

theorem rdspecPlan_head_of_ge {f : AluF} {p : Plane} {i : Issue} {pi : Nat}
    (h : ¬ (opB p i f.sb f.i f.imm).toNat < 3) : (rdspecPlan f p (envOf p i pi)).head = [.fieldRange] := by
  rw [rdspecPlan, aluB_envOf, if_neg h]

theorem rdspecVal_eq (e : Env) (b : Nat) :
    rdspecVal e b = if b = 0 then e.v else if b = 1 then e.s else e.ep % 2 ^ 48 := by
  match b with
  | 0 => rfl
  | 1 => rfl
  | _ + 2 => rfl

/-- RDSPEC writes the value that b selects. -/
theorem rdspecRun_eq (f : AluF) (p : Plane) (i : Issue) (pi : Nat) (q : Plane) (n : Nat) :
    rdspecRun f q (envOf p i pi) n = setReg q (envOf p i pi) f.sd
      (if (opB p i f.sb f.i f.imm).toNat = 0 then i.veng.val
        else if (opB p i f.sb f.i f.imm).toNat = 1 then i.slot.val else (taskAt p i).epoch % 2 ^ 48) := by
  rw [rdspecRun, aluB_envOf, rdspecVal_eq]
  rfl

theorem exec_rdspec (i : Issue) (f : AluF) (s : State) :
    exec (.aluRdspec i f) s
      = .next { s with plane := issueWith (.aluRdspec i f) i (rdspecPlan f) (rdspecRun f) s.plane } := rfl

/-- An instruction that the head check reads, with a fault of its fields and no reserved value, stops its task. -/
theorem issueWith_head {c : Instr} {i : Issue} {pi : Nat} {p : Plane} (h : Reaches c i pi p)
    {plan : Plane → Env → Plan} (hill : (plan p (envOf p i pi)).ill = false) {code : Code} (hcode : code ≠ .hqInvalid)
    (hhead : firstHead (plan p (envOf p i pi)).head = some code) (run : Plane → Env → Nat → Plane) :
    issueWith c i plan run p = stopFault p (envOf p i pi) code (insnAt p (envOf p i pi)) [] := by
  obtain ⟨hgate, hpc, hword, hguard⟩ := h
  simp only [spells, Bool.and_eq_true, beq_iff_eq, decide_eq_true_eq] at hword
  obtain ⟨⟨hfetch, hdec⟩, hsame⟩ := hword
  have hpc' : ¬ ninsnOf p (envOf p i pi).v ≤ (envOf p i pi).t.regs.pc := Nat.not_le.2 hpc
  have hguard' : guardOff (envOf p i pi).t.regs (envOf p i pi).i = false := hguard
  simp [issueWith, hgate, hpc', hfetch, hdec, hsame, attempt, hill, hguard', hhead, hcode]

/-- Settles O1: every ALU row is `issueWith_writesReg` at its own operation; a RDSPEC beyond the three values stops at the
head check. -/
theorem aluWritesResult : Obligations.AluWritesResult := by
  refine ⟨fun c i f op s pi hop hready => ?_, fun i f s pi hready => ?_, fun i f s pi hreach hb => ?_⟩
  · exact ⟨_, exec_aluOp hop s, issueWith_writesReg hready rfl (fun _ _ => rfl)⟩
  · have hfields := ((canIssue_iff _ _ _ _ _).1 hready.1).fields
    have hlt : (opB s.plane i f.sb f.i f.imm).toNat < 3 := by
      refine Decidable.byContradiction fun hge => ?_
      rw [rdspecPlan_head_of_ge hge] at hfields
      exact absurd hfields (by decide)
    have hw := issueWith_writesReg hready (rdspecPlan_of_lt hlt) (rdspecRun_eq f s.plane i pi)
    exact ⟨_, exec_rdspec i f s, hlt, hw⟩
  · have hhead : firstHead (rdspecPlan f s.plane (envOf s.plane i pi)).head = some .fieldRange := by
      rw [rdspecPlan_head_of_ge (Nat.not_lt.2 hb)]
      decide
    rw [exec_rdspec, issueWith_head hreach rfl (by decide) hhead]

end Sys2Proof.Proofs
end

section
/-! What follows of itself in READY ends with the return of the credits (R303): no collective port then counts flits of a
packet that the hub has let go. So not every Plane is one that `settle` gives. -/

namespace Sys2Proof.Proofs

open Sys2Proof Sys2Proof.Machine Sys2Proof.Claims

theorem foldl_regs {β : Type} (l : List β) (f : Plane → β → Plane) (h : ∀ p b, (f p b).regs = p.regs) (p : Plane) :
    (l.foldl f p).regs = p.regs := by
  induction l generalizing p with
  | nil => rfl
  | cons b t ih => rw [List.foldl_cons, ih, h]

/-! ## Credits -/

/-- Every packet whose flits port n counts is one that the hub holds. -/
def CreditsReturned (p : Plane) (n : Nat) : Prop := ∀ k ∈ (getCP p n).rxHeld, stillHeld p k = true

theorem getCP_setCP (p : Plane) (n : Nat) (x : CPort) : getCP (setCP p n x) n = x := spGetD_put_same _ _ _ _

theorem getCP_setCP_ne (p : Plane) {n m : Nat} (x : CPort) (h : m ≠ n) : getCP (setCP p n x) m = getCP p m :=
  spGetD_put_ne _ _ _ h

theorem returnCredit_regs (p : Plane) (n : Nat) : (returnCredit p n).regs = p.regs := by
  simp only [returnCredit]
  split <;> rfl

theorem returnCredit_stillHeld (p : Plane) (n : Nat) (k : Packet) :
    stillHeld (returnCredit p n) k = stillHeld p k := by
  simp only [returnCredit]
  split <;> rfl

theorem returnCredit_returns (p : Plane) (n : Nat) : CreditsReturned (returnCredit p n) n := by
  intro k hk
  rw [returnCredit_stillHeld]
  simp only [returnCredit] at hk
  split at hk
  · next hnone => rw [hnone] at hk; cases hk
  · rw [getCP_setCP] at hk
    exact (List.mem_filter.1 hk).2

theorem getCP_returnCredit_ne (p : Plane) {n m : Nat} (h : m ≠ n) : getCP (returnCredit p n) m = getCP p m := by
  simp only [returnCredit]
  split
  · rfl
  · exact getCP_setCP_ne p _ h

theorem returnCredit_keeps (p : Plane) (n : Nat) {m : Nat} (h : CreditsReturned p m) :
    CreditsReturned (returnCredit p n) m := by
  by_cases hm : m = n
  · exact hm ▸ returnCredit_returns p n
  · intro k hk
    rw [getCP_returnCredit_ne p hm] at hk
    exact (returnCredit_stillHeld p n k).trans (h k hk)

theorem foldl_returnCredit_keeps (l : List Nat) {p : Plane} {m : Nat} (h : CreditsReturned p m) :
    CreditsReturned (l.foldl returnCredit p) m := by
  induction l generalizing p with
  | nil => exact h
  | cons n t ih => exact ih (returnCredit_keeps p n h)

theorem foldl_returnCredit_returns {l : List Nat} {m : Nat} (hm : m ∈ l) (p : Plane) :
    CreditsReturned (l.foldl returnCredit p) m := by
  induction l generalizing p with
  | nil => cases hm
  | cons n t ih =>
    rcases List.mem_cons.1 hm with rfl | ht
    · exact foldl_returnCredit_keeps t (returnCredit_returns p m)
    · exact ih ht _

theorem returnCredits_returns (p : Plane) {n : Nat} (hn : n < 16) : CreditsReturned (returnCredits p) n :=
  foldl_returnCredit_returns (List.mem_range.2 hn) p

/-! ## In HALTED the registers stay (R263) -/

theorem post_regs (p : Plane) (m verb reqid : Nat) (r : Resp) : (post p m verb reqid r).regs = p.regs := rfl

theorem finish_regs (p : Plane) (m : Nat) (r : Resp) : (finish p m r).regs = p.regs := by
  unfold finish
  split
  · rfl
  · simp only
    split
    · exact post_regs _ _ _ _ _
    · rfl

theorem finishWaits_regs (p : Plane) (w : Waits) (r : Resp) : (finishWaits p w r).regs = p.regs := by
  refine foldl_regs _ _ (fun p m => ?_) p
  split
  · split
    · exact finish_regs p m r
    · rfl
  · rfl

theorem refuseReq_regs (p : Plane) (m : Nat) (tail : BitVec 8) (st : Nat) : (refuseReq p m tail st).regs = p.regs := by
  simp only [refuseReq]
  split
  · exact post_regs _ _ _ _ _
  · rfl

theorem refuseAll_regs (p : Plane) (m : Nat) (tail : BitVec 8) (st : Nat) : (refuseAll p m tail st).regs = p.regs := by
  unfold refuseAll forN
  exact foldl_regs _ _ (fun p _ => refuseReq_regs p m tail st) p

theorem freeMbx_regs (p : Plane) (m : Nat) : (freeMbx p m).regs = p.regs := by
  rw [freeMbx, modM_regs, refuseAll_regs]

theorem freeSlot_regs (v : Nat) (p : Plane) (s : Nat) : (freeSlot v p s).regs = p.regs := by
  simp only [freeSlot]
  split
  · rfl
  · rw [finishWaits_regs]
    split <;> rfl

theorem freeSlots_regs (p : Plane) (v : Nat) : (freeSlots p v).regs = p.regs := foldl_regs _ _ (freeSlot_regs v) p

theorem firstHist_regs (p : Plane) (i n : Nat) : (firstHist p i n).regs = p.regs := by
  unfold firstHist
  split
  · exact foldl_regs _ histWord (fun _ _ => rfl) _
  · rfl

theorem startTask_regs (w : List Nat) (session i : Nat) (p : Plane) : (startTask w session i p).1.regs = p.regs := by
  unfold startTask
  split
  · rfl
  · exact firstHist_regs p i _

theorem endMoves_regs (p : Plane) (m : Nat) : (endMoves p m).regs = p.regs := by
  unfold endMoves
  split
  · split
    · split
      · exact finish_regs _ _ _
      · rfl
    · split
      · exact (finish_regs _ _ _).trans (startTask_regs _ _ _ p)
      · rfl
    · split
      · exact finish_regs _ _ _
      · rfl
    · rfl
  · rfl

theorem startNvm_regs (p : Plane) : (startNvm p).regs = p.regs := by
  unfold startNvm
  split <;> rfl

theorem dropCtx_regs (i : Nat) (p : Plane) (id : Nat) : (dropCtx i p id).regs = p.regs := by
  unfold dropCtx
  split <;> rfl

/-- Two ways on that keep the registers. -/
theorem ite_regs {c : Prop} [Decidable c] {p q r : Plane} (hq : q.regs = p.regs) (hr : r.regs = p.regs) :
    (if c then q else r).regs = p.regs := by
  split
  · exact hq
  · exact hr

theorem endSession_regs (p : Plane) (s : Nat) : (endSession p s).regs = p.regs := by
  unfold endSession
  split
  · rfl
  · next x _ =>
    extract_lets ms p1 p2 p3 p4
    have h1 : p1.regs = p.regs := ite_regs (foldl_regs _ _ (fun p m => refuseAll_regs p m _ _) p) rfl
    have h3 : p3.regs = p1.regs := foldl_regs _ _ (dropCtx_regs x.part) p2
    have h4 : p4.regs = p3.regs := foldl_regs _ _ freeMbx_regs p3
    have hgone : p4.regs = p.regs := h4.trans (h3.trans h1)
    refine ite_regs h1 (ite_regs ?_ (ite_regs hgone hgone))
    exact (foldl_regs _ _ (fun p (t : Nat × Nat) => modT_regs p t.1 t.2 _) p1).trans h1

theorem settleHalted_regs (p : Plane) : (settleHalted p).regs = p.regs :=
  calc (settleHalted p).regs
      = (startNvm _).regs := foldl_regs _ _ endSession_regs _
    _ = _ := startNvm_regs _
    _ = _ := foldl_regs _ _ endMoves_regs _
    _ = p.regs := foldl_regs _ _ freeSlots_regs p

/-! ## Settled Planes -/

theorem settle1_returns {p : Plane} (h : (settle1 p).regs.state = .ready) {n : Nat} (hn : n < 16) :
    CreditsReturned (settle1 p) n := by
  unfold settle1 at h ⊢
  split at h
  · next hhalted =>
    rw [settleHalted_regs, hhalted] at h
    cases h
  · next hrun =>
    rw [if_neg hrun]
    exact returnCredits_returns _ hn

/-- Once all that follows of itself has happened, a Plane in READY has returned its credits. -/
theorem settle_returns {p : Plane} (h : (settle p).regs.state = .ready) {n : Nat} (hn : n < 16) :
    CreditsReturned (settle p) n := settle1_returns (p := settle1 p) h hn

/-! ## A TURN that names another place -/

/-- A TURN whose halves would stand where they cannot is no event (log 15): the place is looked at before the gate, the
guard and the fetched word. -/
theorem exec_ringTurn_misplaced {i : Issue} {f : RingF} {pl : RingPlace} {s : State} {q : RingSeq}
    (hq : (getV s.plane i.veng.val).ring = some q) (hready : turnReady q = true)
    (hpl : placesFree s.plane i.veng.val pl q.table = false) : exec (.ringTurn i f pl) s = .next s := by
  have hcond : ((getV s.plane i.veng.val).ring.map
      (fun q => turnReady q && !placesFree s.plane i.veng.val pl q.table)).getD false = true := by
    simp [hq, hready, hpl]
  show Host.Outcome.next { s with plane := if _ then s.plane else _ } = _
  rw [if_pos hcond]

/-- Outside the RING part no place is free, however long the halves are. -/
theorem placesFree_outside {p : Plane} {v : Nat} {pl : RingPlace}
    (h : (bufPart (getV p v).bufCfg (pl.even.toNat % 2 ^ 15) == .ring) = false) (t : List Byte) :
    placesFree p v pl t = false := by
  simp only [placesFree, placeFree, h, Bool.and_false, Bool.false_and]

namespace Misplaced

/-! The counterexample. The flits that port 0 still counts keep the Plane from being one that `settle` gives, so that the
statement's second way, an effect with `settle` after it, is not open to the command. -/

/-- A detached stop between two turns, ready for the next. -/
def half : RingHalf := ⟨0, [], [], 0, 0⟩
def stop : RingSeq := ⟨0, 1, [], 1, 2, 0, half, half, true, false, false⟩

/-- A task whose PC stands past its image of one instruction, on an engine whose buffer has no RING part. -/
def engine : VEng :=
  { VEng.init 0 with
    prog := some ⟨0x100000, 1, [], 0, 0⟩
    tasks := [(0, { Task.init with
      st := .active
      regs := { TaskRegs.init with pc := 1 } })]
    ring := some stop }

/-- A packet of 64 bytes whose flits port 0 still counts, though the hub no longer holds it. -/
def pkt : Packet := ⟨0, 0, 0, 0, 64, 16, 0, 0, 0, 0, 0, 1, 0, 0, 0, false, 0, 1, List.replicate 64 0⟩

/-- The Plane in READY with that engine and that packet. -/
def plane : Plane :=
  { Plane.init with
    regs := { Regs.init with
      state := .ready
      held := .no }
    vengs := [(0, engine)]
    colp := [(0, { CPort.init with rxHeld := [pkt] })] }

def issue : Issue := ⟨0, 0, false, false, 0, .ok, [], []⟩

def turn : Instr := .ringTurn issue ⟨0, 0, 0, 0, 0, 0, 0, 0, 0⟩ ⟨0, 0⟩

theorem gate_plane : gate plane issue = .go 0 := by decide +kernel

theorem pc_past_image : ninsnOf plane issue.veng.val ≤ (taskAt plane issue).regs.pc := by decide +kernel

theorem task_active : (taskAt plane issue).st = .active := by decide +kernel

theorem exec_turn : exec turn ⟨plane, []⟩ = .next ⟨plane, []⟩ :=
  exec_ringTurn_misplaced (q := stop) rfl (by decide) (placesFree_outside (by decide +kernel) _)

/-- The Plane is not a settled one. -/
theorem settle_ne (q : Plane) : settle q ≠ plane := by
  intro h
  have hret : CreditsReturned plane 0 := by
    rw [← h]
    exact settle_returns (h ▸ rfl) (by decide)
  have hheld : stillHeld plane pkt = true := hret pkt (List.mem_singleton.2 rfl)
  exact absurd hheld (by decide +kernel)

theorem plane_of_exec {q : Plane} (h : exec turn ⟨plane, []⟩ = .next ⟨q, []⟩) : plane = q :=
  congrArg State.plane (Host.Outcome.next.inj (exec_turn.symm.trans h))

/-- The command stops the task in neither way: the task is ACTIVE as before. -/
theorem not_stopsTask {q : Plane} {code : Code} {w : BitVec 128}
    (h : exec turn ⟨plane, []⟩ = .next ⟨q, []⟩ ∨ Settles turn ⟨plane, []⟩ q) : ¬ StopsTask plane q issue 0 code w := by
  rintro ⟨hstopped, -⟩
  rcases h with hown | hsettles
  · have hst := congrArg Task.st hstopped
    rw [← plane_of_exec hown, task_active] at hst
    cases hst
  · exact settle_ne q (plane_of_exec hsettles).symm

end Misplaced

/-- Refutes O60: a RING TURN whose command names a place outside the RING part changes nothing, since the model looks at
the place first. The slot's PC stands past its image and its gate is open, and the task is not stopped: it stays ACTIVE. -/
theorem not_guardAndFaultRules : ¬ Obligations.GuardAndFaultRules := by
  unfold Obligations.GuardAndFaultRules
  rintro ⟨-, -, hrows⟩
  obtain ⟨-, -, -, -, hpast⟩ := hrows Misplaced.turn Misplaced.issue ⟨Misplaced.plane, []⟩ 0 rfl Misplaced.gate_plane
  obtain ⟨q, hexec, hstops⟩ := hpast Misplaced.pc_past_image
  exact Misplaced.not_stopsTask hexec hstops

end Sys2Proof.Proofs
end

section
/-! Writes through the control port (R267 to R270, R273, R274, R295). Every row applies its register's effect under
`ctlpWrite`, so a clause of the statement needs what that effect does to the Plane. -/

namespace Sys2Proof.Proofs

open Sys2Proof Sys2Proof.Machine Sys2Proof.Claims

/-! ## The answer of the port -/

theorem heldCold_of_held {p : Plane} (h : p.regs.held = .cold ∨ p.regs.held = .power) : heldCold p = true := by
  rcases h with h | h <;> rw [heldCold, h] <;> rfl

theorem ctlpWrite_held {p : Plane} (h : heldCold p = true) (f : Plane → Plane) : ctlpWrite f p = ctlpAnswer p true :=
  if_pos h

theorem ctlpWrite_open {p : Plane} (h : heldCold p = false) (f : Plane → Plane) :
    ctlpWrite f p = ctlpAnswer (f p) false :=
  if_neg (Bool.not_eq_true _ ▸ h)

/-- Every control-port write is some effect behind the port's check (R304). -/
theorem exec_portWrite {c : Instr} (h : isPortWrite c = true) : ∃ f, ∀ s, exec c s = onPlaneS s (ctlpWrite f) := by
  cases c
  case mbxDb m data => exact ⟨_, fun _ => rfl⟩
  case mbxRspHead m data => exact ⟨_, fun _ => rfl⟩
  case mbxStatus m data => exact ⟨_, fun _ => rfl⟩
  case plNcause data => exact ⟨_, fun _ => rfl⟩
  case plPncause i data => exact ⟨_, fun _ => rfl⟩
  case baseRegisterWrite reg data => exact ⟨_, fun _ => rfl⟩
  case registerWrite a be data => exact ⟨_, fun _ => rfl⟩
  all_goals cases h

section

variable {c : Instr} {s : State} {f : Plane → Plane} (hexec : exec c s = onPlaneS s (ctlpWrite f))
include hexec

/-- In a cold reset nothing but the answer changes. -/
theorem settles_held (hheld : heldCold s.plane = true) : Settles c s (ctlpAnswer s.plane true) := by
  rw [← ctlpWrite_held hheld f]
  exact hexec

variable (hopen : heldCold s.plane = false)
include hopen

/-- Outside a cold reset the effect takes place and is answered without an error. -/
theorem settles_open {q : Plane} (hf : f s.plane = q) : Settles c s (ctlpAnswer q false) := by
  rw [← hf, ← ctlpWrite_open hopen f]
  exact hexec

theorem writesMailbox_of_setM {m : Nat} {x : Mbx} (hf : f s.plane = setM s.plane m x) : WritesMailbox c s m x :=
  ⟨_, settles_open hexec hopen hf, getM_setM s.plane m x, fun _ hn => getM_setM_ne s.plane x hn, rfl⟩

theorem writesPart_of_setP {i : Nat} {x : Part} (hf : f s.plane = setP s.plane i x) : WritesPart c s i x :=
  ⟨_, settles_open hexec hopen hf, getP_setP s.plane i x, fun _ hj => getP_setP_ne s.plane x hj, rfl⟩

theorem writesRegs_of_regs {g : Regs} (hf : f s.plane = { s.plane with regs := g }) : WritesRegs c s g :=
  settles_open hexec hopen hf

end

/-! ## Bits of a written word -/

theorem bit_toNat {n : Nat} (w : BitVec n) (k : Nat) : bit w.toNat k = w.getLsbD k := by
  rw [bit, BitVec.getLsbD, Nat.testBit_eq_decide_div_mod_eq]

/-- Where a 1 is written, a bit clears (R295). -/
theorem getLsbD_clearOnes {n : Nat} (x : BitVec n) (data : U64) {k : Nat} (hk : k < n) :
    (x &&& ~~~(BitVec.ofNat n data.toNat)).getLsbD k = (x.getLsbD k && !data.getLsbD k) := by
  simp [hk]

/-- The implemented bits 51 to `lo` of a base register. -/
theorem keepBits_eq_baseBits (data : U64) {lo : Nat} (hlo : lo ≤ 52) :
    BitVec.ofNat 52 (keepBits data.toNat 51 lo) = baseBits data lo := by
  have hfield : data.toNat % 2 ^ 52 / 2 ^ lo = data.toNat / 2 ^ lo % 2 ^ (52 - lo) := by
    rw [show 2 ^ 52 = 2 ^ lo * 2 ^ (52 - lo) by rw [← Nat.pow_add, Nat.add_sub_cancel' hlo], Nat.mod_mul_right_div_self]
  rw [keepBits, baseBits, bits, hfield]

/-! ## Mailbox pages -/

theorem doorbell_served {p : Plane} (h : p.regs.state = .ready ∨ p.regs.state = .halted) (m : Nat) (t : BitVec 8) :
    doorbell m t p = setM p m
      (if fromHead (getM p m) t ≤ 128 ∧ fromHead (getM p m) (getM p m).reqTail ≤ fromHead (getM p m) t
        then { getM p m with reqTail := t } else { getM p m with dbErr := true }) := by
  have hserved : mbxServed p = true := by rcases h with h | h <;> rw [mbxServed, h] <;> rfl
  rw [apply_ite (setM p m), doorbell, hserved]
  rfl

/-- A doorbell that rings while no mailbox is served changes nothing (log 104). -/
theorem doorbell_unserved {p : Plane} (hr : p.regs.state ≠ .ready) (hh : p.regs.state ≠ .halted) (m : Nat)
    (t : BitVec 8) : doorbell m t p = p := by
  simp [doorbell, mbxServed, hr, hh]

theorem rspHeadWrite_eq (m : Nat) (w : Nat) (p : Plane) :
    rspHeadWrite m w p = setM p m { getM p m with rspHead := BitVec.ofNat 8 (w / 2 ^ 8) } := by
  have hbyte : BitVec.ofNat 8 (bits w 15 8) = BitVec.ofNat 8 (w / 2 ^ 8) :=
    BitVec.eq_of_toNat_eq (by simp [bits])
  rw [rspHeadWrite, modM, hbyte]

theorem mbxStatusWrite_eq (m : Nat) (data : U64) (p : Plane) :
    mbxStatusWrite m data.toNat p = setM p m { getM p m with
      dbErr := (getM p m).dbErr && !data.getLsbD 9
      rsp := (getM p m).rsp && !data.getLsbD 8 } := by
  rw [mbxStatusWrite, modM, bit_toNat, bit_toNat]

/-! ## Base registers (R269) -/

/-- A base register of the plane page takes a value unless a program locks it. -/
theorem baseWrite_unlocked {p : Plane} (h : locked p = false) (data : U64) :
    baseWrite .ctx data.toNat p = { p with regs := { p.regs with ctxBase := baseBits data 31 } }
    ∧ baseWrite .hist data.toNat p = { p with regs := { p.regs with histBase := baseBits data 21 } }
    ∧ baseWrite .spill data.toNat p = { p with regs := { p.regs with spillBase := baseBits data 31 } } := by
  simp [baseWrite, h, keepBits_eq_baseBits]

theorem baseWrite_locked {p : Plane} (h : locked p = true) (w : Nat) :
    baseWrite .ctx w p = p ∧ baseWrite .hist w p = p ∧ baseWrite .spill w p = p := by
  simp [baseWrite, h]

theorem baseWrite_ms_unlocked {p : Plane} {i : Fin 8} (h : partLocked p i.val = false) (data : U64) :
    baseWrite (.ms i) data.toNat p = setP p i.val { getP p i.val with msBase := baseBits data 23 } := by
  simp [baseWrite, h, modP, keepBits_eq_baseBits]

theorem baseWrite_ms_locked {p : Plane} {i : Fin 8} (h : partLocked p i.val = true) (w : Nat) :
    baseWrite (.ms i) w p = p := if_pos h

/-! ## Mailbox memory (R272) -/

/-- The first `n` bytes of a word, each where it is enabled, put in mailbox memory from `off` on. -/
def putEnabled (off : Nat) (be : BitVec 8) (w : Nat) (mem : Mem) (n : Nat) : Mem :=
  forN n mem (fun m k => if bit be.toNat k then memPut 0 m (off + k) (BitVec.ofNat 8 (w / 2 ^ (8 * k))) else m)

theorem putEnabled_succ (off : Nat) (be : BitVec 8) (w : Nat) (mem : Mem) (n : Nat) :
    putEnabled off be w mem (n + 1)
      = if be.getLsbD n then memPut 0 (putEnabled off be w mem n) (off + n) (BitVec.ofNat 8 (w / 2 ^ (8 * n)))
        else putEnabled off be w mem n := by
  rw [putEnabled, forN, List.range_succ, List.foldl_append, ← bit_toNat]
  rfl

theorem memGet_putEnabled_out (off : Nat) (be : BitVec 8) (w : Nat) (mem : Mem) (n : Nat) {b : Nat}
    (h : b < off ∨ off + n ≤ b) : memGet 0 (putEnabled off be w mem n) b = memGet 0 mem b := by
  induction n with
  | zero => rfl
  | succ n ih =>
    rw [putEnabled_succ]
    split
    · rw [memGet_put_ne _ _ _ (by omega), ih (by omega)]
    · exact ih (by omega)

theorem memGet_putEnabled_in (off : Nat) (be : BitVec 8) (w : Nat) (mem : Mem) {n k : Nat} (h : k < n) :
    memGet 0 (putEnabled off be w mem n) (off + k)
      = if be.getLsbD k then BitVec.ofNat 8 (w / 2 ^ (8 * k)) else memGet 0 mem (off + k) := by
  induction n with
  | zero => cases h
  | succ n ih =>
    rw [putEnabled_succ]
    rcases Nat.lt_succ_iff_lt_or_eq.1 h with hlt | rfl
    · split
      · rw [memGet_put_ne _ _ _ (by omega), ih hlt]
      · exact ih hlt
    · split
      · exact memGet_put_same _ _ _ _
      · exact memGet_putEnabled_out off be w mem k (by omega)

/-- A request's header without its reserved bits 15:9 and 63:48. -/
theorem and_hdrMask (w : Nat) : w &&& 0x0000FFFFFFFF01FF = w % 2 ^ 9 + w / 2 ^ 16 % 2 ^ 32 * 2 ^ 16 := by
  have hlow : (w &&& 0x0000FFFFFFFF01FF) % 2 ^ 16 = w % 2 ^ 9 := by
    rw [Nat.and_mod_two_pow, show 0x0000FFFFFFFF01FF % 2 ^ 16 = 2 ^ 9 - 1 from rfl, Nat.and_two_pow_sub_one_eq_mod]
    omega
  have hhigh : (w &&& 0x0000FFFFFFFF01FF) / 2 ^ 16 = w / 2 ^ 16 % 2 ^ 32 := by
    rw [Nat.and_div_two_pow, show 0x0000FFFFFFFF01FF / 2 ^ 16 = 2 ^ 32 - 1 from rfl, Nat.and_two_pow_sub_one_eq_mod]
  rw [← Nat.mod_add_div' (w &&& 0x0000FFFFFFFF01FF) (2 ^ 16), hlow, hhigh]

theorem hdrWord_eq_slotWord (off : Nat) (data : U64) :
    (if isReqHdr off then data.toNat &&& 0x0000FFFFFFFF01FF else data.toNat) = slotWord off data := by
  simp only [isReqHdr, slotWord, and_hdrMask, Bool.and_eq_true, decide_eq_true_eq, beq_iff_eq]

theorem mbxMemWrite_eq (off : Nat) (be : BitVec 8) (data : U64) (p : Plane) :
    mbxMemWrite off be data.toNat p = { p with mbxMem := putEnabled off be (slotWord off data) p.mbxMem 8 } := by
  rw [← hdrWord_eq_slotWord]
  rfl

/-! ## Any write (R267) -/

theorem anyWrite_mbxMem {a : Nat} (h : 0x100000 ≤ a) (be : BitVec 8) (w : Nat) (p : Plane) :
    anyWrite a be w p = mbxMemWrite (a - 0x100000) be w p := if_pos h

/-- Outside the register window, at an unaligned address or with some bytes only, a write below mailbox memory has no
effect (log 42). -/
theorem anyWrite_nothing {a : Nat} {be : BitVec 8} (ha : a < 0x100000)
    (h : 0x10000 ≤ a ∨ a % 8 ≠ 0 ∨ be ≠ 0xFF#8) (w : Nat) (p : Plane) : anyWrite a be w p = p := by
  have hno : ¬ (a < 0x10000 ∧ a % 8 = 0 ∧ be = 0xFF#8) := fun ⟨hlt, hal, hbe⟩ =>
    h.elim (Nat.not_le.2 hlt) (fun h => h.elim (· hal) (· hbe))
  rw [anyWrite, if_neg (Nat.not_le.2 ha), if_neg hno]

/-- Settles O47: in a cold reset `ctlpWrite` answers every row alike; outside one each row is its register's effect, which
writes one mailbox, one partition, the plane page or a word of mailbox memory. A doorbell outside READY and HALTED (log 104)
and a write that the window does not take (log 42) change nothing but the answer. -/
theorem registerWrites : Obligations.RegisterWrites := by
  refine ⟨fun c s hport hheld => ?cold, fun m data s hopen hserved => ?served, fun m data s hopen hr hh => ?unserved,
    fun m data s hopen => ?rspHead, fun m data s hopen => ?status, fun data s hopen => ?ncause,
    fun i data s hopen => ?pncause, fun data s hopen hfree => ?base, fun data s hopen hlock => ?baseLocked,
    fun i data s hopen => ?ms, fun a be data s hopen ha => ?mailboxMemory, fun data s hopen => ?planePage,
    fun a be data s hopen ha hno => ?nothing⟩
  case cold =>
    obtain ⟨f, hexec⟩ := exec_portWrite hport
    exact settles_held (hexec s) (heldCold_of_held hheld)
  case served => exact writesMailbox_of_setM rfl hopen (doorbell_served hserved m.val _)
  case unserved => exact writesRegs_of_regs rfl hopen (doorbell_unserved hr hh m.val _)
  case rspHead => exact writesMailbox_of_setM rfl hopen (rspHeadWrite_eq m.val data.toNat s.plane)
  case status => exact writesMailbox_of_setM rfl hopen (mbxStatusWrite_eq m.val data s.plane)
  case ncause => exact ⟨_, writesRegs_of_regs rfl hopen rfl, rfl, fun k hk => getLsbD_clearOnes _ data hk⟩
  case pncause => exact ⟨_, writesPart_of_setP rfl hopen rfl, rfl, fun k hk => getLsbD_clearOnes _ data hk⟩
  case base =>
    obtain ⟨hctx, hhist, hspill⟩ := baseWrite_unlocked hfree data
    exact ⟨writesRegs_of_regs rfl hopen hctx, writesRegs_of_regs rfl hopen hhist, writesRegs_of_regs rfl hopen hspill⟩
  case baseLocked =>
    obtain ⟨hctx, hhist, hspill⟩ := baseWrite_locked hlock data.toNat
    exact ⟨writesRegs_of_regs rfl hopen hctx, writesRegs_of_regs rfl hopen hhist, writesRegs_of_regs rfl hopen hspill⟩
  case ms =>
    exact ⟨fun hfree => writesPart_of_setP rfl hopen (baseWrite_ms_unlocked hfree data),
      fun hlock => writesRegs_of_regs rfl hopen (baseWrite_ms_locked hlock data.toNat)⟩
  case mailboxMemory =>
    have heffect := (anyWrite_mbxMem ha be data.toNat s.plane).trans (mbxMemWrite_eq _ be data s.plane)
    exact ⟨_, settles_open rfl hopen heffect, rfl, fun k hk => memGet_putEnabled_in _ be _ s.plane.mbxMem hk,
      fun b hb => memGet_putEnabled_out _ be _ s.plane.mbxMem 8 hb⟩
  case planePage =>
    refine ⟨writesRegs_of_regs rfl hopen rfl, writesRegs_of_regs rfl hopen rfl, writesRegs_of_regs rfl hopen ?_⟩
    rw [← keepBits_eq_baseBits data (by decide)]
    rfl
  case nothing => exact writesRegs_of_regs rfl hopen (anyWrite_nothing ha hno data.toNat s.plane)

end Sys2Proof.Proofs
end
